-- ==== Sys2Proof/Word.lean ====
section
/-!
DEFINITION. The words of the block (spec 00_scope.md rules R6 and R8; 30_encoding.md rules R81, R84, R85): the
unsigned widths, the 16-bit colour, the 88-bit request descriptor, the 81-bit pixel stream item and the 6-bit response.
-/
namespace Sys2Proof

/-- `u8` (R8). -/
abbrev Byte := BitVec 8

/-- `u16` (R8): an operand slot, a coordinate of an AddressWindow, a scroll row count. -/
abbrev U16 := BitVec 16

/-- A colour: an opaque 16-bit value (R31). -/
abbrev Color := BitVec 16

/-- A request descriptor, the 88 bits of `REQ` (R81). -/
abbrev Descriptor := BitVec 88

/-- One item of a `DRAW_PIXELS` stream, 81 bits (R84). -/
abbrev PixelItem := BitVec 81

/-- A response word, 6 bits (R85). -/
abbrev ResponseWord := BitVec 6

end Sys2Proof
end

