-- ==== Sys2Proof/Config.lean ====
section
/-!
DEFINITION. The configuration record `Cfg` of 00_scope.md rule R6, as plain data. State holds one (`State.cfg`), so every
statement about all states is a statement about all configurations; `Cfg.default` is the column "value or default" of R6.
-/
namespace Sys2Proof

/-- `ROT_SENSE`: which of the two quarter-turn mappings 90° uses (R6, R164). -/
inductive RotSense where
  | cw
  | ccw
deriving DecidableEq, Repr

/-- `EMPTY_RECT_POLICY`: what a zero-width or zero-height rectangle does (R6, R194). -/
inductive EmptyRectPolicy where
  | reject
  | noop
deriving DecidableEq, Repr

/-- The configuration record (R6), one field per row of its table. -/
structure Cfg where
  /-- `PW` -/
  pw : U16
  /-- `PH` -/
  ph : U16
  /-- `MAX_W` -/
  maxW : Nat
  /-- `MAX_H` -/
  maxH : Nat
  /-- `MIR` -/
  mir : Bool
  /-- `ROT_INIT` -/
  rotInit : BitVec 2
  /-- `ROT_SENSE` -/
  rotSense : RotSense
  /-- `EMPTY_RECT_POLICY` -/
  emptyRectPolicy : EmptyRectPolicy
  /-- `OPC_SLPOUT` -/
  opcSlpout : Byte
  /-- `OPC_COLMOD` -/
  opcColmod : Byte
  /-- `OPC_MADCTL` -/
  opcMadctl : Byte
  /-- `OPC_CASET` -/
  opcCaset : Byte
  /-- `OPC_RASET` -/
  opcRaset : Byte
  /-- `OPC_RAMWR` -/
  opcRamwr : Byte
  /-- `OPC_VSCRDEF` -/
  opcVscrdef : Byte
  /-- `OPC_VSCSAD` -/
  opcVscsad : Byte
  /-- `OPC_DISPON` -/
  opcDispon : Byte
  /-- `COLMOD_16BIT` -/
  colmod16bit : Byte
  /-- `MADCTL_BASE` -/
  madctlBase : Byte
  /-- `MADCTL_MV` -/
  madctlMv : Byte
  /-- `MADCTL_MX` -/
  madctlMx : Byte
  /-- `DC_CMD` -/
  dcCmd : BitVec 1
  /-- `DC_DATA` -/
  dcData : BitVec 1
  /-- `T_RST_LOW_MS` -/
  tRstLowMs : Nat
  /-- `T_RST_SETTLE_MS` -/
  tRstSettleMs : Nat
deriving DecidableEq, Repr

/-- The defaults of R6. The opcode bytes, the colour-mode byte, the MADCTL masks, the D/C levels and the two delays
are marked "[from general knowledge, not in source]" there, the delays as suggestions of an OPEN parameter
(PRESUMED, log entry 2); no definition of the model reads a default. -/
def Cfg.default : Cfg where
  pw := 240
  ph := 240
  maxW := 240
  maxH := 320
  mir := false
  rotInit := 0
  rotSense := .cw
  emptyRectPolicy := .reject
  opcSlpout := 0x11
  opcColmod := 0x3A
  opcMadctl := 0x36
  opcCaset := 0x2A
  opcRaset := 0x2B
  opcRamwr := 0x2C
  opcVscrdef := 0x33
  opcVscsad := 0x37
  opcDispon := 0x29
  colmod16bit := 0x55
  madctlBase := 0x00
  madctlMv := 0x20
  madctlMx := 0x40
  dcCmd := 0
  dcData := 1
  tRstLowMs := 10
  tRstSettleMs := 120

end Sys2Proof
end

