-- ==== Sys2Proof/Syntax.lean ====
section
/-!
DEFINITION. The instructions: one constructor per row of spec/opcode_table.json, in the table's order. The first eight
are the host requests (30_encoding.md rules R82 and R83), with the operands their descriptor carries (a stream is not
part of the descriptor and stands in State); the last nine are the wire commands of 41_register_protocol.md, with the
operands their payload carries (30_encoding.md rule R88).
-/
namespace Sys2Proof

inductive Instr where
  /-- `INIT` (R240): no operands. -/
  | init
  /-- `SET_ORIENTATION` (R168): `rotation = a[0][1:0]`. -/
  | setOrientation (rotation : BitVec 2)
  /-- `CLEAR` (R191). -/
  | clear (color : Color)
  /-- `DRAW_PIXELS` (R192): no operand in the descriptor; its items come from the stream port. -/
  | drawPixels
  /-- `FILL_RECT` (R193): inclusive ends in logical space. -/
  | fillRect (xs xe ys ye : U16) (color : Color)
  /-- `DRAW_IMAGE` (R194): logical rectangle; its bytes come from the stream port. -/
  | drawImage (x y w h : U16)
  /-- `CONFIGURE_SCROLL` (R220). -/
  | configureScroll (top area bottom : U16)
  /-- `SET_OFFSET` (R221). -/
  | setOffset (offset : U16)
  /-- `sleep_out` (R132). -/
  | sleepOut
  /-- `set_color_mode` (R133): "Operands: none variable". -/
  | setColorMode
  /-- `set_memory_access_control` (R134): the two flags its payload byte carries (R90). -/
  | setMemoryAccessControl (mv mx : Bool)
  /-- `set_address_window`, first half (R135): inclusive physical columns. -/
  | setAddressWindowColumns (xStart xEnd : U16)
  /-- `set_address_window`, second half (R135): inclusive physical rows. -/
  | setAddressWindowRows (yStart yEnd : U16)
  /-- `memory_write` (R136). -/
  | memoryWrite (colors : List Color)
  /-- `set_scroll_area` (R137). -/
  | setScrollArea (top middle bottom : U16)
  /-- `set_scroll_offset` (R138). -/
  | setScrollOffset (offset : U16)
  /-- `display_on` (R139). -/
  | displayOn
deriving DecidableEq, Repr

/-- Whether an instruction is a wire command (downstream, R88); the others are host requests (upstream, R82). -/
def Instr.isWire : Instr → Bool
  | .init => false
  | .setOrientation _ => false
  | .clear _ => false
  | .drawPixels => false
  | .fillRect _ _ _ _ _ => false
  | .drawImage _ _ _ _ => false
  | .configureScroll _ _ _ => false
  | .setOffset _ => false
  | .sleepOut => true
  | .setColorMode => true
  | .setMemoryAccessControl _ _ => true
  | .setAddressWindowColumns _ _ => true
  | .setAddressWindowRows _ _ => true
  | .memoryWrite _ => true
  | .setScrollArea _ _ _ => true
  | .setScrollOffset _ => true
  | .displayOn => true

end Sys2Proof
end

