-- ==== Sys2Proof/Machine/Bytes.lean ====
section
/-!
DEFINITION. Bit fields and byte order: the slices of 00_scope.md rule R8, the byte orders of 20_memory.md rules R52 to
R54, the fields of a request descriptor (30_encoding.md rules R81, R83) and of a pixel stream item (R84).
-/
namespace Sys2Proof.Machine

/-- `hi8(v) = v[15:8]` (R8). -/
def hi8 (v : U16) : Byte := v.extractLsb' 8 8

/-- `lo8(v) = v[7:0]` (R8). -/
def lo8 (v : U16) : Byte := v.extractLsb' 0 8

/-- `h ++ l`, the 16-bit value whose most significant byte is `h` (R8). -/
def join16 (h l : Byte) : U16 := h ++ l

/-- A 16-bit command parameter on the wire, most significant byte first (R53). -/
def msbFirst (v : U16) : List Byte := [hi8 v, lo8 v]

/-- Pixel data on the wire: each colour most significant byte first, in sequence order (R52, R119). -/
def colorBytes : List Color → List Byte
  | [] => []
  | c :: cs => hi8 c :: lo8 c :: colorBytes cs

/-- The colours a pixel payload carries, `none` when its length is odd (R52, R88). -/
def colorsOfBytes : List Byte → Option (List Color)
  | [] => some []
  | [_] => none
  | h :: l :: rest => (colorsOfBytes rest).map (join16 h l :: ·)

/-- The complete pixels of a `DRAW_IMAGE` stream: bytes `2i` and `2i+1` are the low and the high byte of pixel `i`
(R54). A last unpaired byte is no pixel. -/
def imageColors : List Byte → List Color
  | lo :: hi :: rest => join16 hi lo :: imageColors rest
  | [_] => []
  | [] => []

/-- Descriptor field `op`, bits 87:80 (R81). -/
def Op.code (d : Descriptor) : Byte := d.extractLsb' 80 8

/-- Operand slot `a[0]`, bits 79:64 (R81). -/
def Op.slot0 (d : Descriptor) : U16 := d.extractLsb' 64 16

/-- Operand slot `a[1]`, bits 63:48 (R81). -/
def Op.slot1 (d : Descriptor) : U16 := d.extractLsb' 48 16

/-- Operand slot `a[2]`, bits 47:32 (R81). -/
def Op.slot2 (d : Descriptor) : U16 := d.extractLsb' 32 16

/-- Operand slot `a[3]`, bits 31:16 (R81). -/
def Op.slot3 (d : Descriptor) : U16 := d.extractLsb' 16 16

/-- Operand slot `a[4]`, bits 15:0 (R81). -/
def Op.slot4 (d : Descriptor) : U16 := d.extractLsb' 0 16

/-- The descriptor with the given fields (R81). -/
def descriptorOf (op : Byte) (a0 a1 a2 a3 a4 : U16) : Descriptor := op ++ a0 ++ a1 ++ a2 ++ a3 ++ a4

/-- Stream item field `end`, bit 80 (R84). -/
def Item.isEnd (t : PixelItem) : Bool := t.getLsbD 80

/-- Stream item field `x`, bits 79:48, an `i32` (R84). -/
def Item.x (t : PixelItem) : Int := (t.extractLsb' 48 32).toInt

/-- Stream item field `y`, bits 47:16, an `i32` (R84). -/
def Item.y (t : PixelItem) : Int := (t.extractLsb' 16 32).toInt

/-- Stream item field `color`, bits 15:0 (R84). -/
def Item.color (t : PixelItem) : Color := t.extractLsb' 0 16

/-- The stream item with the given fields (R84). -/
def itemOf (isEnd : Bool) (x y : BitVec 32) (color : Color) : PixelItem :=
  BitVec.ofBool isEnd ++ x ++ y ++ color

end Sys2Proof.Machine
end

