-- ==== Sys2Proof/WellFormed.lean ====
section
/-!
DEFINITION. Well-formed instructions and well-formed streams. Every request is well formed whatever its operands are
(30_encoding.md rule R86: operand values are validated when it runs, not by its form); a wire command is well formed when
it is one the block can emit: a window half within the panel and not inverted (10_state.md rule R33) and at least one
colour in a memory write (41_register_protocol.md rule R136). A stream is well formed for a request when the request can
be served from it to the end (20_memory.md rule R55; 30_encoding.md rule R84).
-/
namespace Sys2Proof

/-- The well-formed instructions of a configuration. -/
def Instr.wellFormed (c : Cfg) : Instr → Bool
  | .init => true
  | .setOrientation _ => true
  | .clear _ => true
  | .drawPixels => true
  | .fillRect _ _ _ _ _ => true
  | .drawImage _ _ _ _ => true
  | .configureScroll _ _ _ => true
  | .setOffset _ => true
  | .sleepOut => true
  | .setColorMode => true
  | .setMemoryAccessControl _ _ => true
  | .setAddressWindowColumns xs xe => decide (xs.toNat ≤ xe.toNat) && decide (xe.toNat < c.pw.toNat)
  | .setAddressWindowRows ys ye => decide (ys.toNat ≤ ye.toNat) && decide (ye.toNat < c.ph.toNat)
  | .memoryWrite colors => !colors.isEmpty
  | .setScrollArea _ _ _ => true
  | .setScrollOffset _ => true
  | .displayOn => true

/-- A `DRAW_PIXELS` stream that can be served to its end: some item has `end = 1` (R84). -/
def pixelStreamWellFormed (items : List PixelItem) : Bool := items.any Machine.Item.isEnd

/-- A `DRAW_IMAGE` stream for a `w` by `h` rectangle: exactly `2·w·h` bytes (R55). -/
def imageStreamWellFormed (w h : U16) (bytes : List Byte) : Bool :=
  decide (bytes.length = 2 * (w.toNat * h.toNat))

end Sys2Proof
end

