-- ==== Sys2Proof/Decode.lean ====
section
/-!
DEFINITION. Decoding and encoding. A request is an 88-bit descriptor (30_encoding.md rules R81 to R83, R86). A wire
command is its opcode byte and its payload bytes in wire order (rules R87 to R91), under the opcode bytes of a
configuration. Decoding is total and rejects by name; the encoder is written from the same tables.
-/
namespace Sys2Proof

/-- What an instruction is encoded in: one request descriptor, or the bytes of one wire command. -/
inductive Encoded where
  | request (d : Descriptor)
  | wire (bytes : List Byte)
deriving DecidableEq, Repr

/-- Why a word decodes to no instruction. -/
inductive DecodeError where
  /-- `op` is in 0x08 to 0xFF (R86). -/
  | reservedOp (op : Byte)
  /-- No byte at all: a wire command begins with its opcode byte (R87). -/
  | emptyCommand
  /-- The first byte is none of the nine opcode parameters (R88, R92). -/
  | unknownOpcode (opcode : Byte)
  /-- The payload has not the length or the form the opcode implies (R88, R95). -/
  | payloadShape (opcode : Byte)
  /-- A bit of the MADCTL byte outside the two flags differs from `MADCTL_BASE` (R90). -/
  | madctlReservedBits (byte : Byte)
deriving DecidableEq, Repr

/-- The MADCTL byte of two flags (R90). -/
def madctlByte (c : Cfg) (mv mx : Bool) : Byte :=
  c.madctlBase ||| (if mv then c.madctlMv else 0) ||| (if mx then c.madctlMx else 0)

/-- The two flags of a MADCTL byte; a byte whose other bits are not those of `MADCTL_BASE` is refused (R90). -/
def decodeMadctl (c : Cfg) (b : Byte) : Except DecodeError Instr :=
  let mv := b &&& c.madctlMv != 0
  let mx := b &&& c.madctlMx != 0
  if b = madctlByte c mv mx then .ok (.setMemoryAccessControl mv mx) else .error (.madctlReservedBits b)

/-- Request decode (R81 to R83, R86): the operation code selects, ignored slots and bits are not read. -/
def decodeRequest (d : Descriptor) : Except DecodeError Instr :=
  match (Machine.Op.code d).toNat with
  | 0x00 => .ok .init
  | 0x01 => .ok (.setOrientation ((Machine.Op.slot0 d).extractLsb' 0 2))
  | 0x02 => .ok (.clear (Machine.Op.slot0 d))
  | 0x03 => .ok .drawPixels
  | 0x04 => .ok (.fillRect (Machine.Op.slot0 d) (Machine.Op.slot1 d) (Machine.Op.slot2 d) (Machine.Op.slot3 d)
      (Machine.Op.slot4 d))
  | 0x05 => .ok (.drawImage (Machine.Op.slot0 d) (Machine.Op.slot1 d) (Machine.Op.slot2 d) (Machine.Op.slot3 d))
  | 0x06 => .ok (.configureScroll (Machine.Op.slot0 d) (Machine.Op.slot1 d) (Machine.Op.slot2 d))
  | 0x07 => .ok (.setOffset (Machine.Op.slot0 d))
  | _ => .error (.reservedOp (Machine.Op.code d))

/-- The payload of `memory_write`: one colour or more (R88, R136). -/
def decodeMemoryWrite (opcode : Byte) (payload : List Byte) : Except DecodeError Instr :=
  match Machine.colorsOfBytes payload with
  | some (col :: cols) => .ok (.memoryWrite (col :: cols))
  | some [] => .error (.payloadShape opcode)
  | none => .error (.payloadShape opcode)

/-- The payload of a command whose opcode byte is known to be one of the nine (R88). The one payload byte of
`set_color_mode` is no operand ("Operands: none variable", R133): its value is not looked at (DESIGN CHOICE, log
entry 5). -/
def decodePayload (c : Cfg) (opcode : Byte) (payload : List Byte) : Except DecodeError Instr :=
  if opcode = c.opcSlpout then
    match payload with
    | [] => .ok .sleepOut
    | _ => .error (.payloadShape opcode)
  else if opcode = c.opcColmod then
    match payload with
    | [_] => .ok .setColorMode
    | _ => .error (.payloadShape opcode)
  else if opcode = c.opcMadctl then
    match payload with
    | [b] => decodeMadctl c b
    | _ => .error (.payloadShape opcode)
  else if opcode = c.opcCaset then
    match payload with
    | [a, b, p, q] => .ok (.setAddressWindowColumns (Machine.join16 a b) (Machine.join16 p q))
    | _ => .error (.payloadShape opcode)
  else if opcode = c.opcRaset then
    match payload with
    | [a, b, p, q] => .ok (.setAddressWindowRows (Machine.join16 a b) (Machine.join16 p q))
    | _ => .error (.payloadShape opcode)
  else if opcode = c.opcRamwr then decodeMemoryWrite opcode payload
  else if opcode = c.opcVscrdef then
    match payload with
    | [a, b, p, q, u, v] =>
      .ok (.setScrollArea (Machine.join16 a b) (Machine.join16 p q) (Machine.join16 u v))
    | _ => .error (.payloadShape opcode)
  else if opcode = c.opcVscsad then
    match payload with
    | [a, b] => .ok (.setScrollOffset (Machine.join16 a b))
    | _ => .error (.payloadShape opcode)
  else if opcode = c.opcDispon then
    match payload with
    | [] => .ok .displayOn
    | _ => .error (.payloadShape opcode)
  else .error (.unknownOpcode opcode)

/-- Wire command decode: one whole command, opcode byte first (R87, R88, R95). -/
def decodeWire (c : Cfg) : List Byte → Except DecodeError Instr
  | [] => .error .emptyCommand
  | opcode :: payload => decodePayload c opcode payload

/-- Decode of either kind of word. -/
def decode (c : Cfg) : Encoded → Except DecodeError Instr
  | .request d => decodeRequest d
  | .wire bytes => decodeWire c bytes

/-- The descriptor of a request (R81 to R83), ignored bits zero; a wire command has none. -/
def encodeRequest : Instr → Option Descriptor
  | .init => some (Machine.descriptorOf 0x00 0 0 0 0 0)
  | .setOrientation r => some (Machine.descriptorOf 0x01 (r.setWidth 16) 0 0 0 0)
  | .clear col => some (Machine.descriptorOf 0x02 col 0 0 0 0)
  | .drawPixels => some (Machine.descriptorOf 0x03 0 0 0 0 0)
  | .fillRect xs xe ys ye col => some (Machine.descriptorOf 0x04 xs xe ys ye col)
  | .drawImage x y w h => some (Machine.descriptorOf 0x05 x y w h 0)
  | .configureScroll t a b => some (Machine.descriptorOf 0x06 t a b 0 0)
  | .setOffset o => some (Machine.descriptorOf 0x07 o 0 0 0 0)
  | .sleepOut => none
  | .setColorMode => none
  | .setMemoryAccessControl _ _ => none
  | .setAddressWindowColumns _ _ => none
  | .setAddressWindowRows _ _ => none
  | .memoryWrite _ => none
  | .setScrollArea _ _ _ => none
  | .setScrollOffset _ => none
  | .displayOn => none

/-- The opcode byte and the payload of a wire command (R88 to R91); a request has none. -/
def encodeWire (c : Cfg) : Instr → Option (Byte × List Byte)
  | .init => none
  | .setOrientation _ => none
  | .clear _ => none
  | .drawPixels => none
  | .fillRect _ _ _ _ _ => none
  | .drawImage _ _ _ _ => none
  | .configureScroll _ _ _ => none
  | .setOffset _ => none
  | .sleepOut => some (c.opcSlpout, [])
  | .setColorMode => some (c.opcColmod, [c.colmod16bit])
  | .setMemoryAccessControl mv mx => some (c.opcMadctl, [madctlByte c mv mx])
  | .setAddressWindowColumns xs xe => some (c.opcCaset, Machine.msbFirst xs ++ Machine.msbFirst xe)
  | .setAddressWindowRows ys ye => some (c.opcRaset, Machine.msbFirst ys ++ Machine.msbFirst ye)
  | .memoryWrite colors => some (c.opcRamwr, Machine.colorBytes colors)
  | .setScrollArea t m b =>
    some (c.opcVscrdef, Machine.msbFirst t ++ (Machine.msbFirst m ++ Machine.msbFirst b))
  | .setScrollOffset o => some (c.opcVscsad, Machine.msbFirst o)
  | .displayOn => some (c.opcDispon, [])

/-- The word of an instruction. -/
def encode (c : Cfg) (i : Instr) : Option Encoded :=
  match encodeRequest i with
  | some d => some (.request d)
  | none => (encodeWire c i).map fun p => .wire (p.1 :: p.2)

/-- How many payload bytes a command has at its shortest (R88; one colour for `memory_write`). -/
def shortestPayload (c : Cfg) (opcode : Byte) : Nat :=
  if opcode = c.opcSlpout then 0
  else if opcode = c.opcColmod then 1
  else if opcode = c.opcMadctl then 1
  else if opcode = c.opcCaset then 4
  else if opcode = c.opcRaset then 4
  else if opcode = c.opcRamwr then 2
  else if opcode = c.opcVscrdef then 6
  else if opcode = c.opcVscsad then 2
  else 0

/-- An instruction of the opcode table from its `nbits` bits `w`: 88 bits are a descriptor, 8 bits a wire opcode byte
whose payload bytes are all zero. -/
def tableWord (c : Cfg) (nbits w : Nat) : Option Encoded :=
  if nbits = 88 then some (.request (BitVec.ofNat 88 w))
  else if nbits = 8 then
    some (.wire (BitVec.ofNat 8 w :: List.replicate (shortestPayload c (BitVec.ofNat 8 w)) 0))
  else none

/-- The instruction the decoder reads from a word of the opcode table, under the default configuration, whose opcode
bytes are the table's. -/
def decodeTableWord (nbits w : Nat) : Option Instr :=
  match tableWord Cfg.default nbits w with
  | some word => (decode Cfg.default word).toOption
  | none => none

end Sys2Proof
end

