-- ==== Sys2Proof/Machine/State.lean ====
section
/-!
DEFINITION. The state: every register of 10_state.md rule R20 under its own name, the configuration and the environment's
choices the rules take as parameters (R36), the trace and the responses the rules observe (00_scope.md rule R12), and the
ports (30_encoding.md rules R81, R84). Plain data throughout.
-/
namespace Sys2Proof.Machine

/-- The level of the command/data line a burst is sent at (00_scope.md rule R11; 40_transport.md rule R110). -/
inductive Level where
  | command
  | data
deriving DecidableEq, Repr

/-- How a burst ended: reported complete, reported faulted after the bytes shown (R114, the `!` of R11), or never
reported at all, the transport having stopped after the bytes shown (R115; the mark is the model's, log entry 8). -/
inductive Ending where
  | complete
  | faulted
  | stalled
deriving DecidableEq, Repr

/-- A wire event (R11): `RST(l)`, `DLY(n)`, or a burst (`C(b)` at the command level, `D(...)` at the data level). -/
inductive Event where
  | rst (level : BitVec 1)
  | dly (ms : Nat)
  | burst (level : Level) (bytes : List Byte) (ending : Ending)
deriving DecidableEq, Repr

/-- Response codes (60_exceptions.md rule R260). -/
inductive Code where
  | ok
  | transportError
  | outOfBounds
  | invalidScrollLayout
  | initError
  | notReady
  | illegalRequest
deriving DecidableEq, Repr

/-- `PHASE` (10_state.md rule R25); its three values, "the value 3 is never taken". -/
inductive Phase where
  | uninit
  | ready
  | dead
deriving DecidableEq, Repr

/-- `SCR` (10_state.md rule R24). -/
structure Scroll where
  top : U16
  area : U16
  bottom : U16
  offset : U16
deriving DecidableEq, Repr

/-- The transport's verdict on one burst (40_transport.md rules R110, R114, R115): success; a fault reported after
`sent` bytes (the whole burst if it is shorter); or no report ever, after `sent` bytes. `ahead` is how many stream items
beyond those needed for the bytes sent a `DRAW_IMAGE` had already pulled (R119; 93_implementation_defined.md U6). -/
inductive BurstVerdict where
  | ok
  | fault (sent ahead : Nat)
  | hang (sent ahead : Nat)
deriving DecidableEq, Repr

/-- The environment's choices still to come, oldest first (R36): a verdict per burst, for each delay whether the
provider returns (R117, R316), and an `init_ack` per sample (R241). A list that has run out stands for success
(DESIGN CHOICE, log entry 7). -/
structure Env where
  bursts : List BurstVerdict
  delays : List Bool
  acks : List Bool
deriving DecidableEq, Repr

/-- What the host offers at the stream port (R84): nothing, pixel items, or bytes. -/
inductive StreamPort where
  | none
  | pixels (items : List PixelItem)
  | bytes (items : List Byte)
deriving DecidableEq, Repr

/-- What the host side does next: it presents a request with its stream (R81, R84), or the platform resets the block
(70_reset_and_hazards.md rule R300). -/
inductive HostInput where
  | request (d : Descriptor) (stream : StreamPort)
  | blockReset
deriving DecidableEq, Repr

/-- The state of the block, its ports and its environment. -/
structure State where
  /-- The configuration record (00_scope.md rule R6). -/
  cfg : Cfg
  /-- `PW`, a strap (R21). -/
  pw : U16
  /-- `PH`, a strap (R21). -/
  ph : U16
  /-- `MIR`, a strap (R21). -/
  mir : Bool
  /-- `ROT` (R22). -/
  rot : BitVec 2
  /-- `SCR` (R24). -/
  scr : Scroll
  /-- `PHASE` (R25). -/
  phase : Phase
  /-- `XFAULT` (R26). -/
  xfault : Bool
  /-- `BUSY` (R27). -/
  busy : Bool
  /-- `REQ` (R28). -/
  req : Descriptor
  /-- `RSTL` (R30). -/
  rstl : BitVec 1
  /-- `DCL` (R30). -/
  dcl : BitVec 1
  /-- The trace `W`, oldest event first (R11). -/
  trace : List Event
  /-- The response of every accepted request, oldest first (R12, R85). -/
  responses : List ResponseWord
  /-- The stream of the request in progress: what is still to be pulled (R84, R196). -/
  stream : StreamPort
  /-- The model's own: how many stream items the latest request has pulled (log entry 6). -/
  pulled : Nat
  /-- The environment's choices to come (R36). -/
  env : Env
  /-- What the host side will present, oldest first (log entry 9). -/
  inbox : List HostInput
  /-- The model's own: the bytes of one wire command, placed to be run by itself (log entry 4). -/
  direct : Option (List Byte)
  /-- The model's own: how each wire command run by itself ended, oldest first (log entry 4). -/
  directResults : List Code
deriving DecidableEq, Repr

/-- Faults: why the machine stops. A non-`Ok` response is no fault, the block goes on (60_exceptions.md rule R270). -/
inductive Fault where
  /-- Raised by the step when the bytes placed for a wire command run by itself decode to none of the nine commands
  (30_encoding.md rules R88, R92). Safe: the block never does this, no behaviour of it is lost. -/
  | notAWireCommand (why : DecodeError)
deriving DecidableEq, Repr

/-- Refusals: what the model gives no meaning to. -/
inductive Refusal where
  /-- Raised by an arm of `exec` for an instruction that has no meaning yet. Safe. -/
  | notModelled (mnemonic : String)
  /-- Raised by the step and every meaning under a configuration rule R7 calls invalid ("a model refuses an invalid
  one"). Safe. -/
  | invalidConfiguration
  /-- Raised by `DRAW_IMAGE` and `DRAW_PIXELS` where they need a stream item the host's stream does not hold ("refuse",
  20_memory.md rule R55, 93_implementation_defined.md U7). Safe. -/
  | streamExhausted
  /-- Raised by the step when the platform resets the block while a request runs ("a model should give no meaning to it
  (refuse)", 70_reset_and_hazards.md rule R300, U11). Safe. -/
  | resetWhileBusy
  /-- Raised by `memory_write` run by itself with no colour, a form the spec excludes (`n ≥ 1`, 41_register_protocol.md
  rule R136; 40_transport.md rule R110). Safe. -/
  | emptyPixelList
deriving DecidableEq, Repr

/-- The state right after block reset under a configuration (R37, R300): the straps and `ROT` from it, `SCR = (0, PH, 0,
0)`, `UNINIT`, `XFAULT = 0`, `BUSY = 0`, `RSTL = 1`, an empty trace. The spec leaves `REQ` and `DCL` unspecified: they are
zero here (DESIGN CHOICE, log entry 1; no rule reads either before writing it). -/
def State.resetWith (c : Cfg) : State where
  cfg := c
  pw := c.pw
  ph := c.ph
  mir := c.mir
  rot := c.rotInit
  scr := { top := 0, area := c.ph, bottom := 0, offset := 0 }
  phase := .uninit
  xfault := false
  busy := false
  req := 0
  rstl := 1
  dcl := 0
  trace := []
  responses := []
  stream := .none
  pulled := 0
  env := { bursts := [], delays := [], acks := [] }
  inbox := []
  direct := none
  directResults := []

/-- The machine right after reset, with the default configuration of R6 and nothing presented to it. -/
def State.reset : State := State.resetWith Cfg.default

end Sys2Proof.Machine
end

