-- ==== Sys2Proof/Machine/Operands.lean ====
section
/-!
DEFINITION. Operands and their validation: the validity of a configuration (00_scope.md rule R7), the logical extent
(10_state.md rule R23), the bounds predicates (42_orientation_addressing.md rule R162), the window mapper and its inverse
(rules R164, R165). Arithmetic is over the natural numbers and the integers, exact (00_scope.md rule R9).
-/
namespace Sys2Proof.Machine

/-- A mask with exactly one bit set. -/
def isSingleBit (m : Byte) : Bool := m != 0 && (m &&& (m - 1)) == 0

/-- The nine opcode parameters (R6, R88). -/
def opcodes (c : Cfg) : List Byte :=
  [c.opcSlpout, c.opcColmod, c.opcMadctl, c.opcCaset, c.opcRaset, c.opcRamwr, c.opcVscrdef, c.opcVscsad, c.opcDispon]

/-- A valid configuration (R7), clause by clause in the rule's order. -/
def cfgValid (c : Cfg) : Bool :=
  decide (0 < c.pw.toNat * c.ph.toNat)
    && decide (c.pw.toNat ≤ c.maxW) && decide (c.ph.toNat ≤ c.maxH)
    && decide (opcodes c).Nodup
    && isSingleBit c.madctlMv && isSingleBit c.madctlMx && c.madctlMv != c.madctlMx
    && (c.madctlBase &&& c.madctlMv) == 0 && (c.madctlBase &&& c.madctlMx) == 0
    && c.dcCmd != c.dcData

/-- `LW`, the logical width: `PW` at 0° and 180°, `PH` at 90° and 270° (R23). -/
def logicalWidth (rot : BitVec 2) (pw ph : Nat) : Nat := if rot.getLsbD 0 then ph else pw

/-- `LH`, the logical height (R23). -/
def logicalHeight (rot : BitVec 2) (pw ph : Nat) : Nat := if rot.getLsbD 0 then pw else ph

/-- `RectOK(rot, x, y, w, h)` (R162). -/
def rectOK (rot : BitVec 2) (pw ph x y w h : Nat) : Bool :=
  decide (1 ≤ w) && decide (1 ≤ h)
    && decide (x + w ≤ logicalWidth rot pw ph) && decide (y + h ≤ logicalHeight rot pw ph)

/-- `WinOK(rot, xs, xe, ys, ye)` (R162). -/
def winOK (rot : BitVec 2) (pw ph xs xe ys ye : Nat) : Bool :=
  decide (xs ≤ xe) && decide (ys ≤ ye)
    && decide (xe < logicalWidth rot pw ph) && decide (ye < logicalHeight rot pw ph)

/-- Whether a stream position is inside the logical bounds; signed comparison (R23, R192). -/
def positionInside (rot : BitVec 2) (pw ph : Nat) (x y : Int) : Bool :=
  decide (0 ≤ x) && decide (x < logicalWidth rot pw ph) && decide (0 ≤ y) && decide (y < logicalHeight rot pw ph)

/-- An AddressWindow: four 16-bit inclusive bounds (10_state.md rule R33). -/
structure AddressWindow where
  xStart : U16
  xEnd : U16
  yStart : U16
  yEnd : U16
deriving DecidableEq, Repr

/-- A window of four natural numbers. -/
def windowOf (xs xe ys ye : Nat) : AddressWindow where
  xStart := BitVec.ofNat 16 xs
  xEnd := BitVec.ofNat 16 xe
  yStart := BitVec.ofNat 16 ys
  yEnd := BitVec.ofNat 16 ye

/-- The pixels a window covers: both ends are inclusive (R33). -/
def AddressWindow.pixels (win : AddressWindow) : Nat :=
  (win.xEnd.toNat - win.xStart.toNat + 1) * (win.yEnd.toNat - win.yStart.toNat + 1)

/-- A window with an end before its start on some axis: no AddressWindow of the spec (R33, "start ≤ end on each axis"). -/
def AddressWindow.inverted (win : AddressWindow) : Bool :=
  decide (win.xEnd.toNat < win.xStart.toNat) || decide (win.yEnd.toNat < win.yStart.toNat)

/-- A physical window of a panel: not inverted, and inside `[0, PW) × [0, PH)` (R33). -/
def windowPhysical (pw ph : Nat) (win : AddressWindow) : Bool :=
  decide (win.xStart.toNat ≤ win.xEnd.toNat) && decide (win.xEnd.toNat < pw)
    && decide (win.yStart.toNat ≤ win.yEnd.toNat) && decide (win.yEnd.toNat < ph)

/-- The row of the tables of R164 and R165 a rotation selects: with `ccw` rows 1 and 3 are exchanged. -/
def mapperRow (sense : RotSense) (rot : BitVec 2) : Nat :=
  match sense, rot.toNat with
  | .ccw, 1 => 3
  | .ccw, 3 => 1
  | _, n => n

/-- `Translate(rot, x, y, w, h)` (R164), for a rectangle that meets `RectOK`. -/
def translateRect (sense : RotSense) (rot : BitVec 2) (pw ph x y w h : Nat) : AddressWindow :=
  let x1 := x + w - 1
  let y1 := y + h - 1
  match mapperRow sense rot with
  | 0 => windowOf x x1 y y1
  | 1 => windowOf (pw - 1 - y1) (pw - 1 - y) x x1
  | 2 => windowOf (pw - 1 - x1) (pw - 1 - x) (ph - 1 - y1) (ph - 1 - y)
  | _ => windowOf y y1 (ph - 1 - x1) (ph - 1 - x)

/-- A logical rectangle: origin and size. -/
structure Rect where
  x : Nat
  y : Nat
  w : Nat
  h : Nat
deriving DecidableEq, Repr

/-- `Untranslate(rot, win)` (R165); the block never evaluates it. -/
def untranslateWindow (sense : RotSense) (rot : BitVec 2) (pw ph : Nat) (win : AddressWindow) : Rect :=
  let xs := win.xStart.toNat
  let xe := win.xEnd.toNat
  let ys := win.yStart.toNat
  let ye := win.yEnd.toNat
  match mapperRow sense rot with
  | 0 => { x := xs, y := ys, w := xe - xs + 1, h := ye - ys + 1 }
  | 1 => { x := ys, y := pw - 1 - xe, w := ye - ys + 1, h := xe - xs + 1 }
  | 2 => { x := pw - 1 - xe, y := ph - 1 - ye, w := xe - xs + 1, h := ye - ys + 1 }
  | _ => { x := ph - 1 - ye, y := xs, w := ye - ys + 1, h := xe - xs + 1 }

/-- `LW` of a state. -/
def State.lw (s : State) : Nat := logicalWidth s.rot s.pw.toNat s.ph.toNat

/-- `LH` of a state. -/
def State.lh (s : State) : Nat := logicalHeight s.rot s.pw.toNat s.ph.toNat

/-- `Translate` with the configuration, rotation and straps of a state. -/
def State.translate (s : State) (x y w h : Nat) : AddressWindow :=
  translateRect s.cfg.rotSense s.rot s.pw.toNat s.ph.toNat x y w h

/-- The full physical screen (R191). -/
def State.fullWindow (s : State) : AddressWindow := windowOf 0 (s.pw.toNat - 1) 0 (s.ph.toNat - 1)

/-- The items offered at the stream port as pixel items (R84). -/
def StreamPort.pixelItems : StreamPort → List PixelItem
  | .none => []
  | .pixels items => items
  | .bytes _ => []

/-- The items offered at the stream port as bytes (R84). -/
def StreamPort.byteItems : StreamPort → List Byte
  | .none => []
  | .pixels _ => []
  | .bytes items => items

/-- The stream port after `n` items have been pulled: in order, each at most once (R84, R196). -/
def StreamPort.drop (n : Nat) : StreamPort → StreamPort
  | .none => .none
  | .pixels items => .pixels (items.drop n)
  | .bytes items => .bytes (items.drop n)

end Sys2Proof.Machine
end

