-- ==== Sys2Proof/Machine/Flags.lean ====
section
/-!
DEFINITION. The orientation flags (42_orientation_addressing.md rule R160), and the response word with its code and
status bits (30_encoding.md rule R85; 60_exceptions.md rule R260). The block has no arithmetic condition codes
(10_state.md rule R39).
-/
namespace Sys2Proof.Machine

/-- `MV`: exchange row and column, 1 for 90° and 270° (R160). -/
def flagMV (rot : BitVec 2) : Bool := rot.getLsbD 0

/-- `MX`: column address order, 1 for 180° and 270°, flipped by the mirrored flag (R160). -/
def flagMX (rot : BitVec 2) (mir : Bool) : Bool := rot.getLsbD 1 ^^ mir

/-- `Madctl(rot, mir)` (R160). -/
def madctl (c : Cfg) (rot : BitVec 2) (mir : Bool) : Byte := madctlByte c (flagMV rot) (flagMX rot mir)

/-- The number of a response code (R260). -/
def Code.number : Code → BitVec 3
  | .ok => 0
  | .transportError => 1
  | .outOfBounds => 2
  | .invalidScrollLayout => 3
  | .initError => 4
  | .notReady => 5
  | .illegalRequest => 6

/-- The number of a phase (R25). -/
def Phase.number : Phase → BitVec 2
  | .uninit => 0
  | .ready => 1
  | .dead => 2

/-- The response word (R85): the code in bits 2:0, `XFAULT` in bit 3, `PHASE` in bits 5:4. -/
def responseWord (code : Code) (xfault : Bool) (phase : Phase) : ResponseWord :=
  phase.number ++ BitVec.ofBool xfault ++ code.number

/-- The electrical level of the command/data line for a burst level (R6, R30). -/
def Level.line (c : Cfg) : Level → BitVec 1
  | .command => c.dcCmd
  | .data => c.dcData

end Sys2Proof.Machine
end

