-- ==== Sys2Proof/Machine/Ops.lean ====
section
/-!
DEFINITION. The shared operations: the transport primitives of 40_transport.md, the ports, and the one place where an
operation's end, with or without an error, becomes a response (30_encoding.md rules R96, R97; 60_exceptions.md rule R269).
-/
namespace Sys2Proof.Machine

/-- Where a micro-operation leaves the operation it is part of: it goes on from a state; it has raised an error, "raise E
ends the current request at once" (00_scope.md rule R10); it waits for ever, the transport or the delay provider never
returning (70_reset_and_hazards.md rule R316); or the model gives what happened no meaning. -/
inductive Flow where
  | ok (s : State)
  | raise (e : Code) (s : State)
  | stuck (s : State)
  | refuse (r : Refusal)
deriving DecidableEq, Repr

/-- Sequencing: the second part runs only if the first succeeded, "performs none of the pseudocode after it" (R10). -/
def Flow.andThen (f : Flow) (k : State → Flow) : Flow :=
  match f with
  | .ok s => k s
  | .raise e s => .raise e s
  | .stuck s => .stuck s
  | .refuse r => .refuse r

/-- Handling of a raised error (the "on any ... raised below" of 45_init.md rule R240). -/
def Flow.onRaise (f : Flow) (k : Code → State → Flow) : Flow :=
  match f with
  | .ok s => .ok s
  | .raise e s => k e s
  | .stuck s => .stuck s
  | .refuse r => .refuse r

/-- Append a wire event to the trace (R11). -/
def State.emit (e : Event) (s : State) : State := { s with trace := s.trace ++ [e] }

/-- The transport's verdict on the next burst. -/
def Env.verdict (v : Env) : BurstVerdict := v.bursts.headD .ok

/-- The environment once that verdict has been given. -/
def Env.afterBurst (v : Env) : Env := { v with bursts := v.bursts.tail }

/-- Set the D/C line for a burst, and take the transport's verdict on it (R110, R113). -/
def State.startBurst (level : Level) (s : State) : State :=
  { s with dcl := level.line s.cfg, env := s.env.afterBurst }

/-- `Burst(level, bytes)` (R110): all bytes, or a prefix of them and a fault, or a prefix of them and no report. -/
def burst (level : Level) (bytes : List Byte) (s : State) : Flow :=
  match s.env.verdict with
  | .ok => .ok ((s.startBurst level).emit (.burst level bytes .complete))
  | .fault sent _ =>
    .raise .transportError { (s.startBurst level).emit (.burst level (bytes.take sent) .faulted) with xfault := true }
  | .hang sent _ => .stuck ((s.startBurst level).emit (.burst level (bytes.take sent) .stalled))

/-- `SendCommand(opcode)` (R111). -/
def sendCommand (opcode : Byte) (s : State) : Flow := burst .command [opcode] s

/-- `SendData(bytes)` (R112). -/
def sendData (bytes : List Byte) (s : State) : Flow := burst .data bytes s

/-- `WritePixels(colors)` (R119): one data burst for the whole sequence. -/
def writePixels (colors : List Color) (s : State) : Flow := burst .data (colorBytes colors) s

/-- Pull `n` items from the stream port (`Next(stream)`, R10, R84). -/
def State.pull (n : Nat) (s : State) : State := { s with stream := s.stream.drop n, pulled := s.pulled + n }

/-- How many of a burst's `total` bytes a verdict lets out. -/
def BurstVerdict.reach (total : Nat) : BurstVerdict → Nat
  | .ok => total
  | .fault sent _ => min sent total
  | .hang sent _ => min sent total

/-- How many stream bytes have been pulled when the burst of an image of `total` bytes ends, from a stream that holds
`held` of them: all of them if it succeeds, else `2·⌈j/2⌉` for the `j` bytes sent and the verdict's `ahead` more, as far
as the stream holds them (R119; U6). -/
def BurstVerdict.pulls (total held : Nat) : BurstVerdict → Nat
  | .ok => total
  | .fault sent ahead => min held (2 * ((min sent total + 1) / 2) + ahead)
  | .hang sent ahead => min held (2 * ((min sent total + 1) / 2) + ahead)

/-- `WritePixels` of `n` colours pulled from the byte stream (R119, R194): stream bytes beyond `2·n` are not pulled, and
where the burst needs a byte the stream does not hold the model refuses (20_memory.md rule R55; U7). -/
def writePixelsFromStream (n : Nat) (s : State) : Flow :=
  let held := s.stream.byteItems.take (2 * n)
  let wire := colorBytes (imageColors held)
  if wire.length < s.env.verdict.reach (2 * n) then .refuse .streamExhausted
  else burst .data wire (s.pull (s.env.verdict.pulls (2 * n) held.length))

/-- `SetRST(l)` (R116). -/
def setRST (l : BitVec 1) (s : State) : Flow := .ok ({ s with rstl := l }.emit (.rst l))

/-- Whether the delay provider returns from the next delay. -/
def Env.delayReturns (v : Env) : Bool := v.delays.headD true

/-- `Delay(n)` (R117); a provider that never returns leaves the block waiting (R316). -/
def delay (ms : Nat) (s : State) : Flow :=
  let s1 := { s with env := { s.env with delays := s.env.delays.tail } }.emit (.dly ms)
  if s.env.delayReturns then .ok s1 else .stuck s1

/-- The `init_ack` input at its sample point (45_init.md rule R241). -/
def Env.initAck (v : Env) : Bool := v.acks.headD true

/-- Sample `init_ack` once; false raises `InitError` (R240, R241). -/
def sampleInitAck (s : State) : Flow :=
  let s1 := { s with env := { s.env with acks := s.env.acks.tail } }
  if s.env.initAck then .ok s1 else .raise .initError s1

/-- Delivery of a response (R85, R96): the word with the status after the request, `BUSY <- 0`; what is left of the
request's stream is abandoned (R96, R119). -/
def respond (code : Code) (s : State) : State :=
  { s with responses := s.responses ++ [responseWord code s.xfault s.phase], busy := false, stream := .none }

/-- The end of a request (R97, R269): success is answered `Ok`, an error its code; nothing is saved and control goes
nowhere. A request that waits for ever is never answered and `BUSY` stays 1 (R316). -/
def conclude : Flow → Host.Outcome State Fault Refusal
  | .ok s => .next (respond .ok s)
  | .raise e s => .next (respond e s)
  | .stuck s => .next { s with busy := true }
  | .refuse r => .refused r

/-- Dispatch of a request whose operation code is known (R96): phase gating, then the operation. Under an invalid
configuration the model refuses (R7). -/
def runRequest (allowed : Phase → Bool) (operation : State → Flow) (s : State) : Host.Outcome State Fault Refusal :=
  if cfgValid s.cfg then
    if allowed s.phase then conclude (operation s) else .next (respond .notReady s)
  else .refused .invalidConfiguration

/-- The phases in which `INIT` executes: not in `DEAD` (R96, R240). -/
def initAllowed : Phase → Bool
  | .uninit => true
  | .ready => true
  | .dead => false

/-- The phases in which the seven other requests execute (R96). -/
def readyOnly : Phase → Bool
  | .uninit => false
  | .ready => true
  | .dead => false

/-- The end of a wire command run by itself: no request encloses it, so an error ends nothing more and is recorded as
the command's result (DESIGN CHOICE, log entry 4). -/
def concludeDirect : Flow → Host.Outcome State Fault Refusal
  | .ok s => .next { s with directResults := s.directResults ++ [.ok] }
  | .raise e s => .next { s with directResults := s.directResults ++ [e] }
  | .stuck s => .next { s with busy := true }
  | .refuse r => .refused r

/-- A wire command run by itself. -/
def runDirect (operation : State → Flow) (s : State) : Host.Outcome State Fault Refusal :=
  if cfgValid s.cfg then concludeDirect (operation s) else .refused .invalidConfiguration

/-- Acceptance of a request (R96): `BUSY <- 1 ; REQ <- descriptor`, its stream at the stream port, the host's next
inputs left waiting. -/
def accept (d : Descriptor) (stream : StreamPort) (rest : List HostInput) (s : State) : State :=
  { s with busy := true, req := d, stream := stream, pulled := 0, inbox := rest }

/-- Block reset (R300): every register at its reset value, a new trace; the host's further inputs and the environment's
further choices are not the block's and stay. -/
def blockReset (rest : List HostInput) (s : State) : State :=
  { State.resetWith s.cfg with env := s.env, inbox := rest }

end Sys2Proof.Machine
end

