-- ==== Sys2Proof/Machine/RegisterProtocol.lean ====
section
/-!
DEFINITION. The Controller Register Protocol of 41_register_protocol.md: its nine operations and the composite store as
micro-operations, and the meaning of each wire command run by itself.
-/
namespace Sys2Proof.Machine

/-- `reset_sequence()` (R131). -/
def resetSequence (s : State) : Flow :=
  (((setRST 0 s).andThen fun s => delay s.cfg.tRstLowMs s).andThen fun s => setRST 1 s).andThen fun s =>
    delay s.cfg.tRstSettleMs s

/-- A command with a non-empty fixed payload: two bursts (R87, R130). -/
def commandWith (opcode : Byte) (payload : List Byte) (s : State) : Flow :=
  (sendCommand opcode s).andThen fun s => sendData payload s

/-- `sleep_out()` (R132). -/
def sleepOut (s : State) : Flow := sendCommand s.cfg.opcSlpout s

/-- `set_color_mode(16-bit)` (R133). -/
def setColorMode (s : State) : Flow := commandWith s.cfg.opcColmod [s.cfg.colmod16bit] s

/-- The memory access control command with the two flags its byte carries (R90, R134). -/
def sendMadctl (mv mx : Bool) (s : State) : Flow := commandWith s.cfg.opcMadctl [madctlByte s.cfg mv mx] s

/-- `set_memory_access_control(rotation, mirrored)` (R134). -/
def setMemoryAccessControl (rot : BitVec 2) (mir : Bool) (s : State) : Flow :=
  sendMadctl (flagMV rot) (flagMX rot mir) s

/-- `display_on()` (R139). -/
def displayOn (s : State) : Flow := sendCommand s.cfg.opcDispon s

/-- The column half of `set_address_window` (R135). -/
def setWindowColumns (xStart xEnd : U16) (s : State) : Flow :=
  commandWith s.cfg.opcCaset (msbFirst xStart ++ msbFirst xEnd) s

/-- The row half of `set_address_window` (R135). -/
def setWindowRows (yStart yEnd : U16) (s : State) : Flow :=
  commandWith s.cfg.opcRaset (msbFirst yStart ++ msbFirst yEnd) s

/-- `set_address_window(win)` (R135): columns, then rows. -/
def setAddressWindow (win : AddressWindow) (s : State) : Flow :=
  (setWindowColumns win.xStart win.xEnd s).andThen fun s => setWindowRows win.yStart win.yEnd s

/-- `memory_write(colors)` (R136). -/
def memoryWrite (colors : List Color) (s : State) : Flow :=
  (sendCommand s.cfg.opcRamwr s).andThen fun s => writePixels colors s

/-- `memory_write` of `n` colours pulled from the byte stream (R136, R194). -/
def memoryWriteFromStream (n : Nat) (s : State) : Flow :=
  (sendCommand s.cfg.opcRamwr s).andThen fun s => writePixelsFromStream n s

/-- `MemWrite(win, colors)` (R140): the window and its write, nothing between them. -/
def memWrite (win : AddressWindow) (colors : List Color) (s : State) : Flow :=
  (setAddressWindow win s).andThen fun s => memoryWrite colors s

/-- `MemWrite` with the colours pulled from the byte stream (R140, R194). -/
def memWriteFromStream (win : AddressWindow) (n : Nat) (s : State) : Flow :=
  (setAddressWindow win s).andThen fun s => memoryWriteFromStream n s

/-- `set_scroll_area(top, middle, bottom)` (R137). -/
def setScrollArea (top middle bottom : U16) (s : State) : Flow :=
  commandWith s.cfg.opcVscrdef (msbFirst top ++ (msbFirst middle ++ msbFirst bottom)) s

/-- `set_scroll_offset(offset)` (R138): the value sent is the operand unchanged. -/
def setScrollOffset (offset : U16) (s : State) : Flow := commandWith s.cfg.opcVscsad (msbFirst offset) s

/-- The meaning of `sleep_out` (R132). -/
def execSleepOut (s : State) : Host.Outcome State Fault Refusal := runDirect sleepOut s

/-- The meaning of `set_color_mode` (R133). -/
def execSetColorMode (s : State) : Host.Outcome State Fault Refusal := runDirect setColorMode s

/-- The meaning of `set_memory_access_control` (R134). -/
def execSetMemoryAccessControl (mv mx : Bool) (s : State) : Host.Outcome State Fault Refusal :=
  runDirect (sendMadctl mv mx) s

/-- The meaning of the first half of `set_address_window` (R135). "No operation in this file validates its arguments"
(R130). -/
def execSetAddressWindowColumns (xStart xEnd : U16) (s : State) : Host.Outcome State Fault Refusal :=
  runDirect (setWindowColumns xStart xEnd) s

/-- The meaning of the second half of `set_address_window` (R135). -/
def execSetAddressWindowRows (yStart yEnd : U16) (s : State) : Host.Outcome State Fault Refusal :=
  runDirect (setWindowRows yStart yEnd) s

/-- The meaning of `memory_write` (R136). With no colour it is no instruction (`n ≥ 1`) and the model refuses. -/
def execMemoryWrite (colors : List Color) (s : State) : Host.Outcome State Fault Refusal :=
  runDirect (fun s => if colors.isEmpty then .refuse .emptyPixelList else memoryWrite colors s) s

/-- The meaning of `set_scroll_area` (R137). -/
def execSetScrollArea (top middle bottom : U16) (s : State) : Host.Outcome State Fault Refusal :=
  runDirect (setScrollArea top middle bottom) s

/-- The meaning of `set_scroll_offset` (R138). -/
def execSetScrollOffset (offset : U16) (s : State) : Host.Outcome State Fault Refusal :=
  runDirect (setScrollOffset offset) s

/-- The meaning of `display_on` (R139). -/
def execDisplayOn (s : State) : Host.Outcome State Fault Refusal := runDirect displayOn s

end Sys2Proof.Machine
end

