-- ==== Sys2Proof/Machine/Drawing.lean ====
section
/-!
DEFINITION. The Drawing Surface requests of 43_drawing_surface.md: `CLEAR`, `DRAW_PIXELS`, `FILL_RECT`, `DRAW_IMAGE`.
-/
namespace Sys2Proof.Machine

/-- The operation `CLEAR` (R191): the full physical screen at every rotation. -/
def clearScreen (color : Color) (s : State) : Flow :=
  memWrite s.fullWindow (List.replicate (s.pw.toNat * s.ph.toNat) color) s

/-- One item of `DRAW_PIXELS` that is no end item (R192): a 1×1 window and a one-pixel write if the position is inside
the logical bounds, else nothing at all. -/
def drawItem (t : PixelItem) (s : State) : Flow :=
  if positionInside s.rot s.pw.toNat s.ph.toNat (Item.x t) (Item.y t) then
    memWrite (s.translate (Item.x t).toNat (Item.y t).toNat 1 1) [Item.color t] s
  else .ok s

/-- The loop of `DRAW_PIXELS` (R192) over what the stream port holds: items are pulled one at a time, an item is served
before the next is pulled, an end item ends the request. Where no item is left and none was an end item the block would
wait for ever, and the model refuses (U7). -/
def drawItems : List PixelItem → State → Flow
  | [], _ => .refuse .streamExhausted
  | t :: rest, s =>
    if Item.isEnd t then .ok (s.pull 1)
    else (drawItem t (s.pull 1)).andThen fun s => drawItems rest s

/-- The operation `DRAW_PIXELS` (R192). -/
def drawStream (s : State) : Flow := drawItems s.stream.pixelItems s

/-- The operation `FILL_RECT` (R193): validation, then one window and one write of the covered pixels. -/
def fillWindow (xs xe ys ye : U16) (color : Color) (s : State) : Flow :=
  if winOK s.rot s.pw.toNat s.ph.toNat xs.toNat xe.toNat ys.toNat ye.toNat then
    let w := xe.toNat - xs.toNat + 1
    let h := ye.toNat - ys.toNat + 1
    memWrite (s.translate xs.toNat ys.toNat w h) (List.replicate (w * h) color) s
  else .raise .outOfBounds s

/-- The operation `DRAW_IMAGE` (R194): an empty rectangle by the policy, validation, then one window and one write of
the pixels the byte stream supplies, in stream order. -/
def drawImageRect (x y w h : U16) (s : State) : Flow :=
  if (w.toNat = 0 ∨ h.toNat = 0) ∧ s.cfg.emptyRectPolicy = .noop then .ok s
  else if rectOK s.rot s.pw.toNat s.ph.toNat x.toNat y.toNat w.toNat h.toNat then
    memWriteFromStream (s.translate x.toNat y.toNat w.toNat h.toNat) (w.toNat * h.toNat) s
  else .raise .outOfBounds s

/-- The meaning of `CLEAR`. -/
def execClear (color : Color) (s : State) : Host.Outcome State Fault Refusal :=
  runRequest readyOnly (clearScreen color) s

/-- The meaning of `DRAW_PIXELS`. -/
def execDrawPixels (s : State) : Host.Outcome State Fault Refusal := runRequest readyOnly drawStream s

/-- The meaning of `FILL_RECT`. -/
def execFillRect (xs xe ys ye : U16) (color : Color) (s : State) : Host.Outcome State Fault Refusal :=
  runRequest readyOnly (fillWindow xs xe ys ye color) s

/-- The meaning of `DRAW_IMAGE`. -/
def execDrawImage (x y w h : U16) (s : State) : Host.Outcome State Fault Refusal :=
  runRequest readyOnly (drawImageRect x y w h) s

end Sys2Proof.Machine
end

