-- ==== Sys2Proof/Machine/Init.lean ====
section
/-!
DEFINITION. The initialisation request `INIT` of 45_init.md.
-/
namespace Sys2Proof.Machine

/-- The events of `INIT`, in order, and the sample of `init_ack` between them (R240, R241). -/
def startUp (s : State) : Flow :=
  (((((resetSequence s).andThen sleepOut).andThen setColorMode).andThen sampleInitAck).andThen fun s =>
    setMemoryAccessControl s.rot s.mir s).andThen displayOn

/-- The commit of `INIT` (R240). -/
def commitInit (s : State) : Flow :=
  .ok { s with scr := { top := 0, area := s.ph, bottom := 0, offset := 0 }, xfault := false, phase := .ready }

/-- What any error inside `INIT` becomes: `PHASE <- DEAD`, and the request ends with `InitError` (R240, C8). -/
def failInit (s : State) : Flow := .raise .initError { s with phase := .dead }

/-- The operation `INIT` (R240). -/
def initialise (s : State) : Flow := ((startUp s).onRaise fun _ s => failInit s).andThen commitInit

/-- The meaning of `INIT`. -/
def execInit (s : State) : Host.Outcome State Fault Refusal := runRequest initAllowed initialise s

end Sys2Proof.Machine
end

