-- ==== Sys2Proof/Machine/Orientation.lean ====
section
/-!
DEFINITION. The orientation request `SET_ORIENTATION` (42_orientation_addressing.md rule R168).
-/
namespace Sys2Proof.Machine

/-- The commit of `SET_ORIENTATION`: `ROT <- rotation` (R168). -/
def commitRotation (rotation : BitVec 2) (s : State) : Flow := .ok { s with rot := rotation }

/-- The operation `SET_ORIENTATION` (R168): the orientation byte for the strap `MIR`, then the commit. -/
def orient (rotation : BitVec 2) (s : State) : Flow :=
  (setMemoryAccessControl rotation s.mir s).andThen fun s => commitRotation rotation s

/-- The meaning of `SET_ORIENTATION`. -/
def execSetOrientation (rotation : BitVec 2) (s : State) : Host.Outcome State Fault Refusal :=
  runRequest readyOnly (orient rotation) s

end Sys2Proof.Machine
end

