-- ==== Sys2Proof/Machine/Scrolling.lean ====
section
/-!
DEFINITION. The scroll-register controller of 44_scroll.md: `CONFIGURE_SCROLL` and `SET_OFFSET`.
-/
namespace Sys2Proof.Machine

/-- The commit of `CONFIGURE_SCROLL`: the four fields together, the offset reset in the shadow only (R220). -/
def commitScroll (top area bottom : U16) (s : State) : Flow :=
  .ok { s with scr := { top := top, area := area, bottom := bottom, offset := 0 } }

/-- The operation `CONFIGURE_SCROLL` (R220): the exact sum must be `PH`. -/
def layoutScroll (top area bottom : U16) (s : State) : Flow :=
  if top.toNat + area.toNat + bottom.toNat = s.ph.toNat then
    (setScrollArea top area bottom s).andThen fun s => commitScroll top area bottom s
  else .raise .invalidScrollLayout s

/-- The commit of `SET_OFFSET` (R221). -/
def commitOffset (offset : U16) (s : State) : Flow := .ok { s with scr := { s.scr with offset := offset } }

/-- The operation `SET_OFFSET` (R221): the offset must be below `SCR.area`. -/
def moveOffset (offset : U16) (s : State) : Flow :=
  if offset.toNat < s.scr.area.toNat then
    (setScrollOffset offset s).andThen fun s => commitOffset offset s
  else .raise .outOfBounds s

/-- The meaning of `CONFIGURE_SCROLL`. -/
def execConfigureScroll (top area bottom : U16) (s : State) : Host.Outcome State Fault Refusal :=
  runRequest readyOnly (layoutScroll top area bottom) s

/-- The meaning of `SET_OFFSET`. -/
def execSetOffset (offset : U16) (s : State) : Host.Outcome State Fault Refusal :=
  runRequest readyOnly (moveOffset offset) s

end Sys2Proof.Machine
end

