-- ==== Sys2Proof/Machine/Dispatch.lean ====
section
/-!
DEFINITION. The dispatch of an instruction to its meaning, one arm per row of spec/opcode_table.json (30_encoding.md rules
R82, R88).
-/
namespace Sys2Proof.Machine

def exec (i : Instr) (s : State) : Host.Outcome State Fault Refusal :=
  match i with
  | .init => Sys2Proof.Machine.execInit s
  | .setOrientation rotation => Sys2Proof.Machine.execSetOrientation rotation s
  | .clear color => Sys2Proof.Machine.execClear color s
  | .drawPixels => Sys2Proof.Machine.execDrawPixels s
  | .fillRect xs xe ys ye color => Sys2Proof.Machine.execFillRect xs xe ys ye color s
  | .drawImage x y w h => Sys2Proof.Machine.execDrawImage x y w h s
  | .configureScroll top area bottom => Sys2Proof.Machine.execConfigureScroll top area bottom s
  | .setOffset offset => Sys2Proof.Machine.execSetOffset offset s
  | .sleepOut => Sys2Proof.Machine.execSleepOut s
  | .setColorMode => Sys2Proof.Machine.execSetColorMode s
  | .setMemoryAccessControl mv mx => Sys2Proof.Machine.execSetMemoryAccessControl mv mx s
  | .setAddressWindowColumns xStart xEnd => Sys2Proof.Machine.execSetAddressWindowColumns xStart xEnd s
  | .setAddressWindowRows yStart yEnd => Sys2Proof.Machine.execSetAddressWindowRows yStart yEnd s
  | .memoryWrite colors => Sys2Proof.Machine.execMemoryWrite colors s
  | .setScrollArea top middle bottom => Sys2Proof.Machine.execSetScrollArea top middle bottom s
  | .setScrollOffset offset => Sys2Proof.Machine.execSetScrollOffset offset s
  | .displayOn => Sys2Proof.Machine.execDisplayOn s

end Sys2Proof.Machine
end

