-- ==== Sys2Proof/Machine/Port.lean ====
section
/-!
DEFINITION. What a step takes up: the acceptance of a request from the request port and its decode (30_encoding.md rules
R81, R86, R96), a block reset, the idle block, the waiting block; and how a word of the opcode table is placed there.
-/
namespace Sys2Proof.Machine

/-- What a step has to do: run an instruction from a state, or nothing more than answer. -/
inductive Fetched where
  | run (i : Instr) (s : State)
  | answer (o : Host.Outcome State Fault Refusal)

/-- Acceptance of one descriptor (R96): into the latch, then decode; a reserved operation code is answered
`IllegalRequest` whatever the phase (R86, R268). -/
def acceptRequest (d : Descriptor) (stream : StreamPort) (rest : List HostInput) (s : State) : Fetched :=
  match decodeRequest d with
  | .ok i => .run i (accept d stream rest s)
  | .error _ => .answer (.next (respond .illegalRequest (accept d stream rest s)))

/-- The next host input of an idle block; with none the block is idle and waits (R301). -/
def takeInput (s : State) : Fetched :=
  match s.inbox with
  | [] => .answer (.next s)
  | .blockReset :: rest => .answer (.next (blockReset rest s))
  | .request d stream :: rest => acceptRequest d stream rest s

/-- A block that waits for ever inside a request: the request port is not ready, the host can only wait (R27, R316); a
block reset now has no meaning (R300, U11). -/
def waiting (s : State) : Fetched :=
  match s.inbox with
  | .blockReset :: _ => .answer (.refused .resetWhileBusy)
  | [] => .answer (.next s)
  | .request _ _ :: _ => .answer (.next s)

/-- A wire command placed to be run by itself (log entry 4). -/
def takeDirect (bytes : List Byte) (s : State) : Fetched :=
  match decodeWire s.cfg bytes with
  | .ok i => .run i { s with direct := none }
  | .error why => .answer (.fault (.notAWireCommand why))

/-- What the next step takes up. Under an invalid configuration the model refuses (R7). -/
def fetch (s : State) : Fetched :=
  if cfgValid s.cfg then
    if s.busy then waiting s
    else
      match s.direct with
      | some bytes => takeDirect bytes s
      | none => takeInput s
  else .answer (.refused .invalidConfiguration)

/-- A stream the given request can be served from to its end (R84, R55): one end item, or `2·w·h` zero bytes. -/
def servingStream (d : Descriptor) : StreamPort :=
  match decodeRequest d with
  | .ok .drawPixels => .pixels [itemOf true 0 0 0]
  | .ok (.drawImage _ _ w h) => .bytes (List.replicate (2 * (w.toNat * h.toNat)) 0)
  | _ => .none

/-- Place a word of the opcode table where the next step takes it: a descriptor at the head of the host's inputs with a
stream that serves it, a wire command at the direct port; the block is made ready to accept. -/
def placeWord (c : Cfg) (nbits w : Nat) (s : State) : State :=
  match tableWord c nbits w with
  | some (.request d) =>
    { s with inbox := .request d (servingStream d) :: s.inbox, busy := false, direct := none }
  | some (.wire bytes) => { s with direct := some bytes, busy := false }
  | none => s

end Sys2Proof.Machine
end

