-- ==== Sys2Proof/Machine/Step.lean ====
section
/-!
DEFINITION. One step: "one step is one whole request" (00_scope.md rule R12), or what the block does when there is none to
run.
-/
namespace Sys2Proof.Machine

def step (s : State) : Host.Outcome State Fault Refusal :=
  match fetch s with
  | .run i s => exec i s
  | .answer o => o

/-- A word of the opcode table placed where `step` takes its next instruction (log entry 9). -/
def State.withFetchWord (s : State) (nbits w : Nat) : State := placeWord s.cfg nbits w s

end Sys2Proof.Machine
end

