-- ==== Sys2Proof/Machine/Observer.lean ====
section
/-!
DEFINITION. Observers of the trace; no meaning and no step reads them. `flat` is the flattening of 00_scope.md rule R11.
`pixelSpace` replays a trace over the pixel space of 20_memory.md rule R50 ("the model holds no pixel space unless it adds
one as an observer of the trace", 93_implementation_defined.md U16): the colours a trace determines, and nothing where the
spec leaves the contents unknown. Its memory is a list of (address, colour) pairs in one canonical form.
-/
namespace Sys2Proof.Machine

/-- An item of `flat(W)`: a byte tagged with its line level, or a reset-line change, or a delay (R11). -/
inductive FlatItem where
  | rst (level : BitVec 1)
  | dly (ms : Nat)
  | byte (level : Level) (b : Byte)
deriving DecidableEq, Repr

/-- The flattening of one event. -/
def flatEvent : Event → List FlatItem
  | .rst l => [.rst l]
  | .dly ms => [.dly ms]
  | .burst level bytes _ => bytes.map (FlatItem.byte level)

/-- `flat(W)` (R11): burst boundaries are gone, tags remain. -/
def flat (w : List Event) : List FlatItem := w.flatMap flatEvent

/-- The bytes of a trace, whatever their tag (the cost measure of 70_reset_and_hazards.md rule R315). -/
def byteCount (w : List Event) : Nat :=
  ((flat w).filter fun
    | .rst _ => false
    | .dly _ => false
    | .byte _ _ => true).length

/-- The pixel space: (address, colour) pairs, addresses strictly rising; an address that is not listed holds a colour
the trace does not determine. -/
abbrev Memory := List (Nat × Color)

/-- The address of a physical position: the unit of access is one pixel (R50, R55). Coordinates are 16 bits wide. -/
def pixelAddress (column row : Nat) : Nat := row * 65536 + column

/-- The canonical form. -/
def Memory.wf : Memory → Bool
  | [] => true
  | [_] => true
  | p :: q :: rest => decide (p.1 < q.1) && Memory.wf (q :: rest)

/-- The colour at an address, if it is determined. -/
def Memory.read : Memory → Nat → Option Color
  | [], _ => none
  | p :: rest, a => if p.1 = a then some p.2 else Memory.read rest a

/-- Set the colour at an address. -/
def Memory.write : Memory → Nat → Color → Memory
  | [], a, col => [(a, col)]
  | p :: rest, a, col =>
    if a < p.1 then (a, col) :: p :: rest
    else if a = p.1 then (a, col) :: rest
    else p :: Memory.write rest a col

/-- Forget the colour at an address. -/
def Memory.forget : Memory → Nat → Memory
  | [], _ => []
  | p :: rest, a => if p.1 = a then rest else p :: Memory.forget rest a

/-- The addresses a window covers, row by row (R33). -/
def windowAddresses (win : AddressWindow) : List Nat :=
  (List.range' win.yStart.toNat (win.yEnd.toNat + 1 - win.yStart.toNat)).flatMap fun row =>
    (List.range' win.xStart.toNat (win.xEnd.toNat + 1 - win.xStart.toNat)).map fun column => pixelAddress column row

/-- A complete memory write into a window (R136): if all colours are one colour every pixel of the window holds it; else
the order of filling, which "is the controller's and is not specified here", leaves the window undetermined; colours
that are not one per pixel of the window leave everything undetermined. DESIGN CHOICE, log entry 10: a window that is
inverted (an end before its start), which R33 excludes and only a command at the direct port can send (R130, log entry
4), names no pixels the spec knows of, so a write into it leaves everything undetermined. -/
def storeWindow (win : AddressWindow) (colors : List Color) (m : Memory) : Memory :=
  match colors with
  | [] => []
  | col :: rest =>
    if win.inverted then []
    else if colors.length = win.pixels then
      if rest.all (· == col) then (windowAddresses win).foldl (fun m a => Memory.write m a col) m
      else (windowAddresses win).foldl Memory.forget m
    else []

/-- What the observer remembers between events: the command whose payload comes next, the columns and rows last set, and
the pixel space. -/
structure Observer where
  awaiting : Option Byte
  columns : Option (U16 × U16)
  rows : Option (U16 × U16)
  memory : Memory
deriving DecidableEq, Repr

/-- Nothing is determined: at the start, after the controller's reset and after any burst that did not complete ("a
failed burst leaves controller state unknown", 93_implementation_defined.md U2, U16). -/
def Observer.unknown : Observer where
  awaiting := none
  columns := none
  rows := none
  memory := []

/-- The colours of a pixel payload. -/
def payloadColors (bytes : List Byte) : List Color := (colorsOfBytes bytes).getD []

/-- A complete payload after the command byte `opcode` (R88). -/
def Observer.payload (c : Cfg) (opcode : Byte) (bytes : List Byte) (o : Observer) : Observer :=
  if opcode = c.opcCaset then
    match bytes with
    | [a, b, p, q] => { o with columns := some (join16 a b, join16 p q) }
    | _ => Observer.unknown
  else if opcode = c.opcRaset then
    match bytes with
    | [a, b, p, q] => { o with rows := some (join16 a b, join16 p q) }
    | _ => Observer.unknown
  else if opcode = c.opcRamwr then
    match o.columns, o.rows with
    | some (xs, xe), some (ys, ye) =>
      { o with memory :=
          storeWindow { xStart := xs, xEnd := xe, yStart := ys, yEnd := ye } (payloadColors bytes) o.memory }
    | _, _ => Observer.unknown
  else o

/-- One event (R11). -/
def Observer.event (c : Cfg) (o : Observer) : Event → Observer
  | .rst _ => Observer.unknown
  | .dly _ => o
  | .burst .command [opcode] .complete => { o with awaiting := some opcode }
  | .burst .data bytes .complete =>
    match o.awaiting with
    | some opcode => { Observer.payload c opcode bytes o with awaiting := none }
    | none => Observer.unknown
  | .burst _ _ _ => Observer.unknown

/-- The observer after a trace. -/
def observe (c : Cfg) (w : List Event) : Observer := w.foldl (Observer.event c) Observer.unknown

/-- The pixel space a trace determines. -/
def pixelSpace (c : Cfg) (w : List Event) : Memory := (observe c w).memory

end Sys2Proof.Machine
end

