-- ==== Sys2Proof/Machine/Trace.lean ====
section
/-!
DEFINITION. A decoder of the flattened trace (30_encoding.md rule R95): it finds the wire commands in `flat(W)` from the
D/C tags alone, and accepts a command that a transport fault cut short. It observes; no meaning and no step reads it.
-/
namespace Sys2Proof.Machine

/-- The payload bytes at the head of a flattened trace: the data bytes before the next command byte, the next `RST` event
or the end of the trace (R95). A delay is not among the ends the rule names and is passed over (log entry 20). -/
def payloadAhead : List FlatItem → List Byte
  | [] => []
  | .byte .data b :: rest => b :: payloadAhead rest
  | .byte .command _ :: _ => []
  | .rst _ :: _ => []
  | .dly _ :: rest => payloadAhead rest

/-- The wire commands of a flattened trace, each as its opcode byte and the payload bytes that follow it: "a command starts
at each byte tagged `c`" (R95). Data bytes with no command byte before them belong to no command (log entry 20). -/
def delimit : List FlatItem → List (Byte × List Byte)
  | [] => []
  | .byte .command opcode :: rest => (opcode, payloadAhead rest) :: delimit rest
  | .byte .data _ :: rest => delimit rest
  | .rst _ :: rest => delimit rest
  | .dly _ :: rest => delimit rest

/-- A command of a trace: whole, or cut short at some byte of its payload (R95). -/
inductive TraceCommand where
  | whole (i : Instr)
  | truncated (opcode : Byte) (payload : List Byte)
deriving DecidableEq, Repr

/-- Whether a payload stops before its command's end: it is shorter than the command's shortest payload, or, in a memory
write, it ends inside a pixel (R88, R95). -/
def stopsShort (c : Cfg) (opcode : Byte) (payload : List Byte) : Bool :=
  (opcodes c).contains opcode &&
    (decide (payload.length < shortestPayload c opcode) || (opcode == c.opcRamwr && payload.length % 2 == 1))

/-- One delimited command. A memory write cut between two pixels is, by its tags alone, the memory write of the pixels that
went out. -/
def decodeDelimited (c : Cfg) (command : Byte × List Byte) : Except DecodeError TraceCommand :=
  if stopsShort c command.1 command.2 then .ok (.truncated command.1 command.2)
  else (decodePayload c command.1 command.2).map .whole

/-- The delimited commands in order; the first that is neither a command nor a command cut short refuses the trace. -/
def decodeCommands (c : Cfg) : List (Byte × List Byte) → Except DecodeError (List TraceCommand)
  | [] => .ok []
  | command :: rest =>
    match decodeDelimited c command with
    | .ok found =>
      match decodeCommands c rest with
      | .ok more => .ok (found :: more)
      | .error why => .error why
    | .error why => .error why

/-- The commands of a flattened trace (R95). "A decoder must accept truncated final commands": the last command of a request
that a fault ended, wherever it stands in the trace (log entry 20). -/
def decodeTrace (c : Cfg) (w : List FlatItem) : Except DecodeError (List TraceCommand) := decodeCommands c (delimit w)

/-- The tagged bytes of a wire command (R87, R95); a request has none. -/
def wireItems (c : Cfg) (i : Instr) : List FlatItem :=
  match encodeWire c i with
  | some (opcode, payload) => .byte .command opcode :: payload.map (FlatItem.byte .data)
  | none => []

end Sys2Proof.Machine
end

