-- ==== Sys2Proof/Safety.lean ====
section
/-!
DEFINITION. What statements are made in: the order a trace keeps (30_encoding.md rules R87, R88, R95, R98), the invariant
of the registers (10_state.md rules R21, R24), the conditions on the environment under which a request runs to its end,
and the events each operation sends when it does.
-/
namespace Sys2Proof.Machine

/-- `C(opcode)`, complete (R11). -/
def cmd (opcode : Byte) : Event := .burst .command [opcode] .complete

/-- `D(bytes)`, complete (R11). -/
def dat (bytes : List Byte) : Event := .burst .data bytes .complete

/-! ### The order of a trace -/

/-- Whether a reset pulse with its settle delay, `RST(1) DLY(n)`, stands in a trace given newest event first (R98). -/
def started : List Event → Bool
  | [] => false
  | e :: before =>
    (match e, before with
      | .dly _, .rst l :: _ => l == 1
      | _, _ => false) || started before

/-- The columns of a complete column command that is the newest thing in a trace given newest event first (R98). -/
def columnsBefore (c : Cfg) : List Event → Option (U16 × U16)
  | .burst .data [a, b, p, q] .complete :: .burst .command [opcode] .complete :: _ =>
    if opcode = c.opcCaset then some (join16 a b, join16 p q) else none
  | _ => none

/-- The window of a complete column command and a complete row command that are the newest things in a trace given
newest event first (R98). -/
def windowBefore (c : Cfg) : List Event → Option AddressWindow
  | .burst .data [a, b, p, q] .complete :: .burst .command [opcode] .complete :: before =>
    if opcode = c.opcRaset then
      (columnsBefore c before).map fun xs =>
        { xStart := xs.1, xEnd := xs.2, yStart := join16 a b, yEnd := join16 p q }
    else none
  | _ => none

/-- What rule R98 asks of a byte sent at the command level, given what stands before it. -/
def commandByteOk (c : Cfg) (before : List Event) (b : Byte) : Bool :=
  (opcodes c).contains b
    && (b != c.opcRaset || (columnsBefore c before).isSome)
    && (b != c.opcRamwr || (windowBefore c before).isSome)
    && started before

/-- What rules R87, R95 and R98 ask of a complete data burst, given what stands before it: it follows a command byte, a
memory write has two bytes for each pixel of the window before it, and the payload of any other command has the one
length its opcode implies, which is not 0. -/
def dataBurstOk (c : Cfg) (before : List Event) (bytes : List Byte) : Bool :=
  match before with
  | .burst .command [opcode] .complete :: earlier =>
    if opcode = c.opcRamwr then
      match windowBefore c earlier with
      | some win => decide (bytes.length = 2 * win.pixels)
      | none => false
    else !bytes.isEmpty && decide (bytes.length = shortestPayload c opcode)
  | _ => false

/-- Whether an event may stand after the events `before` (newest first). -/
def eventOk (c : Cfg) (before : List Event) : Event → Bool
  | .rst _ => true
  | .dly _ => true
  | .burst .command bytes _ => decide (bytes.length ≤ 1) && bytes.all (commandByteOk c before)
  | .burst .data bytes .complete => dataBurstOk c before bytes
  | .burst .data _ .faulted => true
  | .burst .data _ .stalled => true

/-- Whether every event of a trace given newest first may stand where it stands. -/
def traceOk (c : Cfg) : List Event → Bool
  | [] => true
  | e :: before => eventOk c before e && traceOk c before

/-! ### The invariant -/

/-- The invariant of `SCR` (R24): the rows sum to `PH`, and the offset is below the area, or both are 0. -/
def scrollOk (ph : U16) (scr : Scroll) : Bool :=
  decide (scr.top.toNat + scr.area.toNat + scr.bottom.toNat = ph.toNat)
    && (decide (scr.offset.toNat < scr.area.toNat) || (scr.area == 0 && scr.offset == 0))

/-- The straps hold what the configuration says (R21). -/
def strapsOk (s : State) : Bool := s.pw == s.cfg.pw && s.ph == s.cfg.ph && s.mir == s.cfg.mir

/-- The invariant every step keeps: a valid configuration (R7), the straps (R21), the scroll shadow (R24), the order of
the trace (R98), no command without a reset pulse before it (R244), and nothing at the model's own direct port, which
the block does not have (log entry 4). -/
def State.inv (s : State) : Bool :=
  cfgValid s.cfg && strapsOk s && scrollOk s.ph s.scr && traceOk s.cfg s.trace.reverse
    && (s.phase != .ready || started s.trace.reverse) && s.direct == none

/-! ### The environment -/

/-- The transport's next `n` verdicts are all success. -/
def Env.clear (n : Nat) (v : Env) : Bool := (v.bursts.take n).all (· == .ok)

/-- The environment after `n` bursts. -/
def Env.after (n : Nat) (v : Env) : Env := { v with bursts := v.bursts.drop n }

/-- The delay provider returns from the next `n` delays. -/
def Env.returns (n : Nat) (v : Env) : Bool := (v.delays.take n).all (· == true)

/-- The environment after the bursts, the delays and the sample of one `INIT` (R240). -/
def Env.afterInit (v : Env) : Env where
  bursts := v.bursts.drop 6
  delays := v.delays.drop 2
  acks := v.acks.drop 1

/-! ### The events of an operation that runs to its end -/

/-- The events of a window and its write (R135, R136, R140). -/
def storeEvents (c : Cfg) (win : AddressWindow) (bytes : List Byte) : List Event :=
  [cmd c.opcCaset, dat (msbFirst win.xStart ++ msbFirst win.xEnd),
   cmd c.opcRaset, dat (msbFirst win.yStart ++ msbFirst win.yEnd),
   cmd c.opcRamwr, dat bytes]

/-- The events of `INIT` (R240). -/
def initEvents (s : State) : List Event :=
  [.rst 0, .dly s.cfg.tRstLowMs, .rst 1, .dly s.cfg.tRstSettleMs,
   cmd s.cfg.opcSlpout,
   cmd s.cfg.opcColmod, dat [s.cfg.colmod16bit],
   cmd s.cfg.opcMadctl, dat [madctl s.cfg s.rot s.mir],
   cmd s.cfg.opcDispon]

/-- The bursts a request other than `INIT` sends when it runs to its end, for operands that pass its check and a stream that
serves it (43_drawing_surface.md rules R191 to R194, 42_orientation_addressing.md rule R168, 44_scroll.md rules R220,
R221). -/
def Sends (s : State) (i : Instr) (events : List Event) : Prop :=
  (∃ rotation, i = .setOrientation rotation ∧ events = [cmd s.cfg.opcMadctl, dat [madctl s.cfg rotation s.mir]]) ∨
  (∃ color, i = .clear color ∧
    events = storeEvents s.cfg s.fullWindow (colorBytes (List.replicate (s.pw.toNat * s.ph.toNat) color))) ∨
  (∃ items last rest, i = .drawPixels ∧ s.stream = .pixels (items ++ last :: rest) ∧
    items.all (fun t => !Item.isEnd t) = true ∧ Item.isEnd last = true ∧
    events = (items.filter fun t => positionInside s.rot s.pw.toNat s.ph.toNat (Item.x t) (Item.y t)).flatMap fun t =>
      storeEvents s.cfg (s.translate (Item.x t).toNat (Item.y t).toNat 1 1) [hi8 (Item.color t), lo8 (Item.color t)]) ∨
  (∃ xs xe ys ye color, i = .fillRect xs xe ys ye color ∧
    winOK s.rot s.pw.toNat s.ph.toNat xs.toNat xe.toNat ys.toNat ye.toNat = true ∧
    events =
      let w := xe.toNat - xs.toNat + 1
      let h := ye.toNat - ys.toNat + 1
      storeEvents s.cfg (s.translate xs.toNat ys.toNat w h) (colorBytes (List.replicate (w * h) color))) ∨
  (∃ x y w h bytes, i = .drawImage x y w h ∧
    rectOK s.rot s.pw.toNat s.ph.toNat x.toNat y.toNat w.toNat h.toNat = true ∧
    s.stream = .bytes bytes ∧ 2 * (w.toNat * h.toNat) ≤ bytes.length ∧
    events = storeEvents s.cfg (s.translate x.toNat y.toNat w.toNat h.toNat)
      (colorBytes (imageColors (bytes.take (2 * (w.toNat * h.toNat)))))) ∨
  (∃ top area bottom, i = .configureScroll top area bottom ∧ top.toNat + area.toNat + bottom.toNat = s.ph.toNat ∧
    events = [cmd s.cfg.opcVscrdef, dat [hi8 top, lo8 top, hi8 area, lo8 area, hi8 bottom, lo8 bottom]]) ∨
  (∃ offset, i = .setOffset offset ∧ offset.toNat < s.scr.area.toNat ∧
    events = [cmd s.cfg.opcVscsad, dat [hi8 offset, lo8 offset]])

/-- The bursts of a wire command run by itself: its opcode byte, and its payload where it has one (30_encoding.md rule
R87). -/
def wireEvents (c : Cfg) (i : Instr) : List Event :=
  match encodeWire c i with
  | some (opcode, []) => [cmd opcode]
  | some (opcode, b :: payload) => [cmd opcode, dat (b :: payload)]
  | none => []

/-- An event the transport or the line reported complete. -/
def Event.completed : Event → Bool
  | .rst _ => true
  | .dly _ => true
  | .burst _ _ .complete => true
  | .burst _ _ .faulted => false
  | .burst _ _ .stalled => false

/-- A burst the transport reported a fault on. -/
def Event.isFault : Event → Bool
  | .rst _ => false
  | .dly _ => false
  | .burst _ _ .complete => false
  | .burst _ _ .faulted => true
  | .burst _ _ .stalled => false

/-! ### Ready, idle, answered -/

/-- The block can take its next input: a valid configuration, no request in progress, nothing at the direct port. -/
def State.idle (s : State) : Bool := cfgValid s.cfg && !s.busy && s.direct == none

/-- A request other than `INIT` executes: a valid configuration and `PHASE = READY` (R96). -/
def State.serves (s : State) : Bool := cfgValid s.cfg && s.phase == .ready

/-- A state with the response of a request delivered and nothing else changed (R85, R96, R269): the effect of every
gating, decode and validation error. -/
def State.answered (code : Code) (s : State) : State :=
  { s with responses := s.responses ++ [responseWord code s.xfault s.phase], busy := false, stream := .none }

/-- The response code in a response word: bits 2:0 (R85). -/
def responseCode (w : ResponseWord) : Nat := (w.extractLsb' 0 3).toNat

/-- The drawing requests (R190). -/
def drawsPixels : Instr → Bool
  | .init => false
  | .setOrientation _ => false
  | .clear _ => true
  | .drawPixels => true
  | .fillRect _ _ _ _ _ => true
  | .drawImage _ _ _ _ => true
  | .configureScroll _ _ _ => false
  | .setOffset _ => false
  | .sleepOut => false
  | .setColorMode => false
  | .setMemoryAccessControl _ _ => false
  | .setAddressWindowColumns _ _ => false
  | .setAddressWindowRows _ _ => false
  | .memoryWrite _ => false
  | .setScrollArea _ _ _ => false
  | .setScrollOffset _ => false
  | .displayOn => false

/-- The scroll requests (R223). -/
def isScroll : Instr → Bool
  | .init => false
  | .setOrientation _ => false
  | .clear _ => false
  | .drawPixels => false
  | .fillRect _ _ _ _ _ => false
  | .drawImage _ _ _ _ => false
  | .configureScroll _ _ _ => true
  | .setOffset _ => true
  | .sleepOut => false
  | .setColorMode => false
  | .setMemoryAccessControl _ _ => false
  | .setAddressWindowColumns _ _ => false
  | .setAddressWindowRows _ _ => false
  | .memoryWrite _ => false
  | .setScrollArea _ _ _ => false
  | .setScrollOffset _ => false
  | .displayOn => false

/-- A function applied to the next state of an outcome. -/
def mapNext (f : State → State) : Host.Outcome State Fault Refusal → Host.Outcome State Fault Refusal
  | .next s => .next (f s)
  | .fault r => .fault r
  | .refused r => .refused r

/-- The bits of a descriptor the operation `op` reads (the table of R83): its operation code, and its operand slots. -/
def operandMask (op : Byte) : Descriptor :=
  match op.toNat with
  | 0x01 => descriptorOf 0xFF 0x0003 0 0 0 0
  | 0x02 => descriptorOf 0xFF 0xFFFF 0 0 0 0
  | 0x04 => descriptorOf 0xFF 0xFFFF 0xFFFF 0xFFFF 0xFFFF 0xFFFF
  | 0x05 => descriptorOf 0xFF 0xFFFF 0xFFFF 0xFFFF 0xFFFF 0
  | 0x06 => descriptorOf 0xFF 0xFFFF 0xFFFF 0xFFFF 0 0
  | 0x07 => descriptorOf 0xFF 0xFFFF 0 0 0 0
  | _ => descriptorOf 0xFF 0 0 0 0 0

end Sys2Proof.Machine
end

