-- ==== Sys2Proof/Certificates/Slice0/Obligations.lean ====
section
/-!
DEFINITION. The statements for the provers. Each docstring names the rule of the spec it formalises. Where a statement
speaks of an operation that runs to its end, its hypotheses are on the state alone: a valid configuration (00_scope.md
rule R7), the phase that allows it (30_encoding.md rule R96), and an environment whose next answers are success
(`Env.clear n`: the next `n` bursts do not fault and are reported; `Env.returns n`: the next `n` delays end).
-/
open Sys2Proof Sys2Proof.Machine

/-! ### Encoding -/

/-- 30_encoding.md rules R81 to R83 and R87 to R91: for every valid configuration and every well-formed instruction, with
its operands at any value, the encoder gives a word and the decoder gives the instruction back from it. -/
def Obligations.EncodeThenDecodeGivesTheInstruction : Prop :=
  ∀ (c : Cfg) (i : Instr), cfgValid c = true → i.wellFormed c = true →
    ∃ w, encode c i = some w ∧ decode c w = .ok i

/-- 30_encoding.md rules R83 and R86: "two descriptors that differ only in ignored bits are the same request". -/
def Obligations.IgnoredBitsDoNotChangeTheRequest : Prop :=
  ∀ d d' : Descriptor, d &&& operandMask (Op.code d) = d' &&& operandMask (Op.code d) →
    decodeRequest d' = decodeRequest d

/-- 30_encoding.md rules R82, R83 and R88: words written out from the encodings decode to what they stand for. The opcode
bytes of the three wire commands are the defaults of `Cfg`, general knowledge and not the source's (PRESUMED, log entry
2); that `set_memory_access_control` reads two flags from its byte is DEDUCED (log entry 11). -/
def Obligations.TableWordsDecodeAsWritten : Prop :=
  decodeRequest 0x0000000000000000000000 = .ok .init ∧
  decodeRequest 0x01FFFE1234000500060007 = .ok (.setOrientation 2) ∧
  decodeRequest 0x02001F0000000000000000 = .ok (.clear 0x001F) ∧
  decodeRequest 0x0300000000000000000000 = .ok .drawPixels ∧
  decodeRequest 0x04000A00270014003BF800 = .ok (.fillRect 10 39 20 59 0xF800) ∧
  decodeRequest 0x0500220008005600400000 = .ok (.drawImage 34 8 86 64) ∧
  decodeRequest 0x06002800A0002800000000 = .ok (.configureScroll 40 160 40) ∧
  decodeRequest 0x07009F0000000000000000 = .ok (.setOffset 159) ∧
  decodeWire Cfg.default [0x36, 0x60] = .ok (.setMemoryAccessControl true true) ∧
  decodeWire Cfg.default [0x2B, 0x01, 0x3E, 0x01, 0x3F] = .ok (.setAddressWindowRows 318 319) ∧
  decodeWire Cfg.default [0x2C, 0xF8, 0x00, 0x07, 0xE0] = .ok (.memoryWrite [0xF800, 0x07E0])

/-! ### The step -/

/-- 30_encoding.md rule R96: the step of an idle block to which a request is presented is the request's meaning, run on
the state with `BUSY = 1`, the descriptor in `REQ` and the request's stream at the stream port. -/
def Obligations.StepRunsTheDecodedRequest : Prop :=
  ∀ (s : State) (d : Descriptor) (stream : StreamPort) (rest : List HostInput) (i : Instr),
    s.idle = true → s.inbox = .request d stream :: rest → decodeRequest d = .ok i →
    step s = exec i { s with busy := true, req := d, stream := stream, pulled := 0, inbox := rest }

/-- The model's own direct port (log entry 4): the step of an idle block at whose direct port a wire command stands is
that command's meaning. -/
def Obligations.StepRunsTheDecodedWireCommand : Prop :=
  ∀ (s : State) (bytes : List Byte) (i : Instr),
    cfgValid s.cfg = true → s.busy = false → s.direct = some bytes → decodeWire s.cfg bytes = .ok i →
    step s = exec i { s with direct := none }

/-- 60_exceptions.md rules R266 and R268: an operation code above 0x07 is answered `IllegalRequest` whatever the phase,
and nothing else happens but that the latch takes the descriptor and the request is used up. -/
def Obligations.ReservedOperationsAreIllegalRequests : Prop :=
  ∀ (s : State) (d : Descriptor) (stream : StreamPort) (rest : List HostInput),
    s.idle = true → s.inbox = .request d stream :: rest → 7 < (Op.code d).toNat →
    step s = .next { s with
      req := d, inbox := rest, stream := .none, pulled := 0,
      responses := s.responses ++ [responseWord .illegalRequest s.xfault s.phase] }

/-- 70_reset_and_hazards.md rule R301 and 10_state.md rule R27: an idle block with nothing presented waits, and so does,
whatever is presented but a block reset, one that is inside a request for ever. -/
def Obligations.BlockWithNothingToDoWaits : Prop :=
  (∀ s : State, s.idle = true → s.inbox = [] → step s = .next s) ∧
  (∀ s : State, cfgValid s.cfg = true → s.busy = true → (∀ rest, s.inbox ≠ .blockReset :: rest) → step s = .next s)

/-- 10_state.md rule R37: the reset values under any configuration, and the state the run starts from. `REQ` and `DCL`,
which the rule leaves unspecified, are not spoken of. -/
def Obligations.ResetPutsEveryRegisterAtItsValue : Prop :=
  State.reset = State.resetWith Cfg.default ∧
  ∀ c : Cfg,
    (State.resetWith c).pw = c.pw ∧ (State.resetWith c).ph = c.ph ∧ (State.resetWith c).mir = c.mir ∧
    (State.resetWith c).rot = c.rotInit ∧
    (State.resetWith c).scr = { top := 0, area := c.ph, bottom := 0, offset := 0 } ∧
    (State.resetWith c).phase = .uninit ∧ (State.resetWith c).xfault = false ∧ (State.resetWith c).busy = false ∧
    (State.resetWith c).rstl = 1

/-- 70_reset_and_hazards.md rule R300: a block reset of an idle block puts every register at its reset value and starts
an empty trace, in every phase; during a request the model refuses it. -/
def Obligations.BlockResetOfAnIdleBlock : Prop :=
  ∀ (s : State) (rest : List HostInput), cfgValid s.cfg = true → s.inbox = .blockReset :: rest →
    (s.busy = true → step s = .refused .resetWhileBusy) ∧
    (s.busy = false → s.direct = none →
      ∃ t, step s = .next t ∧ t.cfg = s.cfg ∧ t.pw = s.cfg.pw ∧ t.ph = s.cfg.ph ∧ t.mir = s.cfg.mir ∧
        t.rot = s.cfg.rotInit ∧ t.scr = { top := 0, area := s.cfg.ph, bottom := 0, offset := 0 } ∧
        t.phase = .uninit ∧ t.xfault = false ∧ t.busy = false ∧ t.rstl = 1 ∧ t.trace = [] ∧ t.inbox = rest)

/-- 60_exceptions.md rule R265: a request other than `INIT` in `UNINIT`, and any request in `DEAD`, is answered
`NotReady`, with no other effect. -/
def Obligations.RequestsOutsideTheirPhaseAreNotReady : Prop :=
  ∀ (i : Instr) (s : State), cfgValid s.cfg = true → i.isWire = false →
    (s.phase = .dead ∨ (s.phase = .uninit ∧ i ≠ .init)) →
    exec i s = .next (s.answered .notReady)

/-- 00_scope.md rule R7: under an invalid configuration the model refuses every step and every instruction. -/
def Obligations.InvalidConfigurationIsRefused : Prop :=
  ∀ s : State, cfgValid s.cfg = false →
    step s = .refused .invalidConfiguration ∧ ∀ i, exec i s = .refused .invalidConfiguration

/-! ### `INIT` -/

/-- 45_init.md rules R240 and R242: in `UNINIT` and in `READY`, `INIT` sends the reset pulse with its two delays, sleep
out, the colour mode, the orientation byte of `(ROT, MIR)` and display on, in that order and nothing else; then `SCR` is
at its defaults, `XFAULT` is 0, `PHASE` is `READY`, and the answer is `Ok`. -/
def Obligations.InitRunsItsSequence : Prop :=
  ∀ s : State, cfgValid s.cfg = true → s.phase ≠ .dead →
    s.env.clear 6 = true → s.env.returns 2 = true → s.env.initAck = true →
    exec .init s = .next { s with
      trace := s.trace ++
        [.rst 0, .dly s.cfg.tRstLowMs, .rst 1, .dly s.cfg.tRstSettleMs,
         cmd s.cfg.opcSlpout,
         cmd s.cfg.opcColmod, dat [s.cfg.colmod16bit],
         cmd s.cfg.opcMadctl, dat [madctl s.cfg s.rot s.mir],
         cmd s.cfg.opcDispon],
      scr := { top := 0, area := s.ph, bottom := 0, offset := 0 }, xfault := false, phase := .ready,
      rstl := 1, dcl := s.cfg.dcCmd,
      responses := s.responses ++ [responseWord .ok false .ready], busy := false, stream := .none,
      env := { bursts := s.env.bursts.drop 6, delays := s.env.delays.drop 2, acks := s.env.acks.drop 1 } }

/-- 45_init.md rule R241: a false `init_ack` at its sample point, right after the colour-mode payload, ends `INIT` with
`InitError` in `DEAD`, and the commands after it are not sent. -/
def Obligations.MissingAcknowledgeEndsInit : Prop :=
  ∀ s : State, cfgValid s.cfg = true → s.phase ≠ .dead →
    s.env.clear 3 = true → s.env.returns 2 = true → s.env.initAck = false →
    exec .init s = .next { s with
      trace := s.trace ++
        [.rst 0, .dly s.cfg.tRstLowMs, .rst 1, .dly s.cfg.tRstSettleMs,
         cmd s.cfg.opcSlpout, cmd s.cfg.opcColmod, dat [s.cfg.colmod16bit]],
      phase := .dead, rstl := 1, dcl := s.cfg.dcData,
      responses := s.responses ++ [responseWord .initError s.xfault .dead], busy := false, stream := .none,
      env := { bursts := s.env.bursts.drop 3, delays := s.env.delays.drop 2, acks := s.env.acks.drop 1 } }

/-- 60_exceptions.md rules R264 and R269, 45_init.md rules R240, R241 and R243 (R243's sentence on the reset line is marked
derived there). First, a fault ends `INIT`: outside `DEAD`, where both delays end and the burst numbered `k` of its six is
the first that faults, after `n` bytes (the acknowledge, sampled after the third burst, being given where that burst comes
later), the trace grows by the `INIT` events up to that burst and the cut burst, `PHASE` is `DEAD`, `XFAULT` is 1, `SCR`
and `ROT` are unchanged, the reset line is high and the answer is `InitError`. Second, an `INIT` that executed, was
answered and did not end in `READY` ended so, by a faulted burst, or by the missing acknowledge after the seventh event,
which leaves `XFAULT` alone. No other request is answered `InitError`. -/
def Obligations.FailedInitLeavesADeadBlock : Prop :=
  (∀ (s : State) (k n ahead : Nat) (level : Level) (bytes : List Byte), cfgValid s.cfg = true → s.phase ≠ .dead →
    s.env.returns 2 = true → (initEvents s)[4 + k]? = some (.burst level bytes .complete) → s.env.clear k = true →
    (s.env.after k).verdict = .fault n ahead → (3 ≤ k → s.env.initAck = true) →
    exec .init s = .next { s with
      trace := s.trace ++ (initEvents s).take (4 + k) ++ [.burst level (bytes.take n) .faulted],
      phase := .dead, xfault := true, rstl := 1, dcl := level.line s.cfg,
      responses := s.responses ++ [responseWord .initError true .dead], busy := false, stream := .none,
      env := { bursts := s.env.bursts.drop (k + 1), delays := s.env.delays.drop 2,
               acks := s.env.acks.drop (if 3 ≤ k then 1 else 0) } }) ∧
  (∀ s t : State, s.phase ≠ .dead → exec .init s = .next t → t.busy = false → t.phase ≠ .ready →
    t.phase = .dead ∧ t.scr = s.scr ∧ t.rot = s.rot ∧ t.rstl = 1 ∧
    t.responses = s.responses ++ [responseWord .initError t.xfault .dead] ∧
    ((t.xfault = true ∧ ∃ before after level bytes n, initEvents s = before ++ .burst level bytes .complete :: after ∧
        t.trace = s.trace ++ before ++ [.burst level (bytes.take n) .faulted]) ∨
     (t.xfault = s.xfault ∧ s.env.initAck = false ∧ t.trace = s.trace ++ (initEvents s).take 7))) ∧
  (∀ (s t : State) (i : Instr) (w : ResponseWord), i.isWire = false → exec i s = .next t →
    t.responses = s.responses ++ [w] → responseCode w = 4 → i = .init)

/-! ### Requests that run to their end -/

/-- 42_orientation_addressing.md rule R168: `SET_ORIENTATION` sends the orientation byte of the new rotation and the strap
`MIR`, even when it is the rotation in force, commits `ROT`, and is answered `Ok`. -/
def Obligations.SetOrientationSendsItsByteAndCommits : Prop :=
  ∀ (s : State) (rotation : BitVec 2), s.serves = true → s.env.clear 2 = true →
    exec (.setOrientation rotation) s = .next { s with
      trace := s.trace ++ [cmd s.cfg.opcMadctl, dat [madctl s.cfg rotation s.mir]],
      rot := rotation, dcl := s.cfg.dcData,
      responses := s.responses ++ [responseWord .ok s.xfault s.phase], busy := false, stream := .none,
      env := { s.env with bursts := s.env.bursts.drop 2 } }

/-- 43_drawing_surface.md rule R191: `CLEAR` sends the full physical window and one memory write of `PW·PH` copies of the
colour, at every rotation. -/
def Obligations.ClearSendsTheFullScreen : Prop :=
  ∀ (s : State) (color : Color), s.serves = true → s.env.clear 6 = true →
    exec (.clear color) s = .next { s with
      trace := s.trace ++
        [cmd s.cfg.opcCaset, dat (msbFirst 0 ++ msbFirst (BitVec.ofNat 16 (s.pw.toNat - 1))),
         cmd s.cfg.opcRaset, dat (msbFirst 0 ++ msbFirst (BitVec.ofNat 16 (s.ph.toNat - 1))),
         cmd s.cfg.opcRamwr, dat (colorBytes (List.replicate (s.pw.toNat * s.ph.toNat) color))],
      dcl := s.cfg.dcData,
      responses := s.responses ++ [responseWord .ok s.xfault s.phase], busy := false, stream := .none,
      env := { s.env with bursts := s.env.bursts.drop 6 } }

/-- 43_drawing_surface.md rule R192: `DRAW_PIXELS` takes the items in stream order up to the end item; an item inside the
logical bounds costs a 1×1 window at its translated position and a one-pixel write, one outside nothing at all; the items
after the end item are not pulled; the answer is `Ok`. -/
def Obligations.DrawPixelsServesTheItemsInOrder : Prop :=
  ∀ (s : State) (items rest : List PixelItem) (last : PixelItem),
    s.serves = true → s.stream = .pixels (items ++ last :: rest) → items.all (fun t => !Item.isEnd t) = true →
    Item.isEnd last = true → s.env.clear (6 * items.length) = true →
    let inside := items.filter fun t => positionInside s.rot s.pw.toNat s.ph.toNat (Item.x t) (Item.y t)
    exec .drawPixels s = .next { s with
      trace := s.trace ++ inside.flatMap fun t =>
        storeEvents s.cfg (s.translate (Item.x t).toNat (Item.y t).toNat 1 1) [hi8 (Item.color t), lo8 (Item.color t)],
      dcl := if inside.isEmpty then s.dcl else s.cfg.dcData,
      responses := s.responses ++ [responseWord .ok s.xfault s.phase], busy := false, stream := .none,
      pulled := s.pulled + items.length + 1,
      env := { s.env with bursts := s.env.bursts.drop (6 * inside.length) } }

/-- 43_drawing_surface.md rule R193: a `FILL_RECT` whose window is inside the logical bounds sends one translated window
and one memory write of the covered pixel count. -/
def Obligations.FillRectSendsOneWindowAndItsPixels : Prop :=
  ∀ (s : State) (xs xe ys ye : U16) (color : Color), s.serves = true → s.env.clear 6 = true →
    winOK s.rot s.pw.toNat s.ph.toNat xs.toNat xe.toNat ys.toNat ye.toNat = true →
    let w := xe.toNat - xs.toNat + 1
    let h := ye.toNat - ys.toNat + 1
    exec (.fillRect xs xe ys ye color) s = .next { s with
      trace := s.trace ++ storeEvents s.cfg (s.translate xs.toNat ys.toNat w h) (colorBytes (List.replicate (w * h) color)),
      dcl := s.cfg.dcData,
      responses := s.responses ++ [responseWord .ok s.xfault s.phase], busy := false, stream := .none,
      env := { s.env with bursts := s.env.bursts.drop 6 } }

/-- 43_drawing_surface.md rule R194 and 20_memory.md rule R55: a `DRAW_IMAGE` whose rectangle is inside the logical bounds
and whose stream holds at least `2·w·h` bytes sends one translated window and one memory write of the stream's pixels in
stream order, and pulls exactly `2·w·h` bytes; under the policy `noop` an empty rectangle is answered `Ok` with nothing
sent and nothing pulled. -/
def Obligations.DrawImageSendsTheStreamPixels : Prop :=
  ∀ (s : State) (x y w h : U16), s.serves = true →
    (∀ bytes : List Byte, s.env.clear 6 = true →
      rectOK s.rot s.pw.toNat s.ph.toNat x.toNat y.toNat w.toNat h.toNat = true →
      s.stream = .bytes bytes → 2 * (w.toNat * h.toNat) ≤ bytes.length →
      exec (.drawImage x y w h) s = .next { s with
        trace := s.trace ++ storeEvents s.cfg (s.translate x.toNat y.toNat w.toNat h.toNat)
          (colorBytes (imageColors (bytes.take (2 * (w.toNat * h.toNat))))),
        dcl := s.cfg.dcData,
        responses := s.responses ++ [responseWord .ok s.xfault s.phase], busy := false, stream := .none,
        pulled := s.pulled + 2 * (w.toNat * h.toNat),
        env := { s.env with bursts := s.env.bursts.drop 6 } }) ∧
    (s.cfg.emptyRectPolicy = .noop → (w = 0 ∨ h = 0) → exec (.drawImage x y w h) s = .next (s.answered .ok))

/-- 44_scroll.md rule R220: a layout whose exact sum is `PH` is sent, committed with the offset 0, and no offset command
goes out; it is checked against `PH` at every rotation. -/
def Obligations.ConfigureScrollSendsAndCommitsTheLayout : Prop :=
  ∀ (s : State) (top area bottom : U16), s.serves = true → s.env.clear 2 = true →
    top.toNat + area.toNat + bottom.toNat = s.ph.toNat →
    exec (.configureScroll top area bottom) s = .next { s with
      trace := s.trace ++
        [cmd s.cfg.opcVscrdef, dat [hi8 top, lo8 top, hi8 area, lo8 area, hi8 bottom, lo8 bottom]],
      scr := { top := top, area := area, bottom := bottom, offset := 0 }, dcl := s.cfg.dcData,
      responses := s.responses ++ [responseWord .ok s.xfault s.phase], busy := false, stream := .none,
      env := { s.env with bursts := s.env.bursts.drop 2 } }

/-- 44_scroll.md rules R221 and R222: an offset below `SCR.area` is sent unchanged and committed. -/
def Obligations.SetOffsetSendsAndCommitsTheOffset : Prop :=
  ∀ (s : State) (offset : U16), s.serves = true → s.env.clear 2 = true → offset.toNat < s.scr.area.toNat →
    exec (.setOffset offset) s = .next { s with
      trace := s.trace ++ [cmd s.cfg.opcVscsad, dat [hi8 offset, lo8 offset]],
      scr := { s.scr with offset := offset }, dcl := s.cfg.dcData,
      responses := s.responses ++ [responseWord .ok s.xfault s.phase], busy := false, stream := .none,
      env := { s.env with bursts := s.env.bursts.drop 2 } }

/-! ### Wire commands -/

/-- 41_register_protocol.md rules R132 and R139, 40_transport.md rule R111: `sleep_out` and `display_on` are one command
burst of their opcode and nothing else; a faulted burst raises `TransportError`, with the byte sent or not. That the
error, which no request encloses here, is recorded as the command's result is the model's own (log entry 4). -/
def Obligations.PlainCommandsAreOneOpcodeByte : Prop :=
  ∀ (s : State) (i : Instr) (opcode : Byte), cfgValid s.cfg = true →
    ((i = .sleepOut ∧ opcode = s.cfg.opcSlpout) ∨ (i = .displayOn ∧ opcode = s.cfg.opcDispon)) →
    (s.env.verdict = .ok →
      exec i s = .next { s with
        trace := s.trace ++ [cmd opcode], dcl := s.cfg.dcCmd,
        env := { s.env with bursts := s.env.bursts.tail }, directResults := s.directResults ++ [.ok] }) ∧
    (∀ n ahead, s.env.verdict = .fault n ahead →
      exec i s = .next { s with
        trace := s.trace ++ [.burst .command ([opcode].take n) .faulted], dcl := s.cfg.dcCmd, xfault := true,
        env := { s.env with bursts := s.env.bursts.tail }, directResults := s.directResults ++ [.transportError] })

/-- 41_register_protocol.md rules R133 to R138, 30_encoding.md rules R87 to R91: each command with a payload is one
command burst of its opcode and one data burst of its payload, which the list gives byte by byte; a memory write, which
has at least one colour, sends two bytes a colour, most significant first. -/
def Obligations.CommandsWithPayloadSendTheirBytes : Prop :=
  ∀ (s : State) (i : Instr) (opcode : Byte) (payload : List Byte), cfgValid s.cfg = true → s.env.clear 2 = true →
    ((i = .setColorMode ∧ opcode = s.cfg.opcColmod ∧ payload = [s.cfg.colmod16bit]) ∨
     (∃ mv mx, i = .setMemoryAccessControl mv mx ∧ opcode = s.cfg.opcMadctl ∧
       payload = [s.cfg.madctlBase ||| (if mv then s.cfg.madctlMv else 0) ||| (if mx then s.cfg.madctlMx else 0)]) ∨
     (∃ xs xe, i = .setAddressWindowColumns xs xe ∧ opcode = s.cfg.opcCaset ∧
       payload = [hi8 xs, lo8 xs, hi8 xe, lo8 xe]) ∨
     (∃ ys ye, i = .setAddressWindowRows ys ye ∧ opcode = s.cfg.opcRaset ∧
       payload = [hi8 ys, lo8 ys, hi8 ye, lo8 ye]) ∨
     (∃ colors, i = .memoryWrite colors ∧ colors ≠ [] ∧ opcode = s.cfg.opcRamwr ∧
       payload = colors.flatMap fun col => [hi8 col, lo8 col]) ∨
     (∃ top middle bottom, i = .setScrollArea top middle bottom ∧ opcode = s.cfg.opcVscrdef ∧
       payload = [hi8 top, lo8 top, hi8 middle, lo8 middle, hi8 bottom, lo8 bottom]) ∨
     (∃ offset, i = .setScrollOffset offset ∧ opcode = s.cfg.opcVscsad ∧ payload = [hi8 offset, lo8 offset])) →
    exec i s = .next { s with
      trace := s.trace ++ [cmd opcode, dat payload], dcl := s.cfg.dcData,
      env := { s.env with bursts := s.env.bursts.drop 2 }, directResults := s.directResults ++ [.ok] }

/-- 40_transport.md rules R110 and R114: where one of the two bursts of a command with a payload faults, the bytes before
the fault went out, nothing follows, and `XFAULT` is 1; a faulted command byte keeps the payload from being sent. -/
def Obligations.FaultedCommandsStopAtTheFault : Prop :=
  ∀ (s : State) (i : Instr) (opcode b : Byte) (payload : List Byte), cfgValid s.cfg = true →
    i.wellFormed s.cfg = true → encodeWire s.cfg i = some (opcode, b :: payload) →
    (∀ n ahead, s.env.verdict = .fault n ahead →
      exec i s = .next { s with
        trace := s.trace ++ [.burst .command ([opcode].take n) .faulted], dcl := s.cfg.dcCmd, xfault := true,
        env := { s.env with bursts := s.env.bursts.tail }, directResults := s.directResults ++ [.transportError] }) ∧
    (∀ n ahead, s.env.verdict = .ok → s.env.afterBurst.verdict = .fault n ahead →
      exec i s = .next { s with
        trace := s.trace ++ [cmd opcode, .burst .data ((b :: payload).take n) .faulted], dcl := s.cfg.dcData,
        xfault := true, env := { s.env with bursts := s.env.bursts.drop 2 },
        directResults := s.directResults ++ [.transportError] })

/-- 00_scope.md rule R11, 30_encoding.md rules R87 and R95: what a wire command adds to `flat(W)` is its encoding, the
opcode byte tagged `c` and every payload byte tagged `d`; and from the tags alone a decoder of `flat(W)` finds the
commands again: an `RST` event or a command byte ends the command before it, a sequence of whole commands is read as that
sequence, and where the last one is cut after any number `n` of its bytes the sequence is accepted with that command cut
short (or, in a memory write cut between two pixels, as the memory write of the pixels that went out; what the rule does
not say of a decoder is log entry 20). -/
def Obligations.WireCommandsAddTheirEncodingToTheTrace : Prop :=
  (∀ (s : State) (i : Instr) (opcode : Byte) (payload : List Byte), cfgValid s.cfg = true →
    i.wellFormed s.cfg = true → s.env.clear 2 = true → encodeWire s.cfg i = some (opcode, payload) →
    ∃ t, exec i s = .next t ∧
      flat t.trace = flat s.trace ++ FlatItem.byte .command opcode :: payload.map (FlatItem.byte .data)) ∧
  (∀ (a b : List FlatItem) (e : FlatItem), ((∃ l, e = .rst l) ∨ ∃ opcode, e = .byte .command opcode) →
    delimit (a ++ e :: b) = delimit a ++ delimit (e :: b)) ∧
  (∀ (c : Cfg) (commands : List Instr), cfgValid c = true →
    (∀ i ∈ commands, i.isWire = true ∧ i.wellFormed c = true) →
    decodeTrace c (commands.flatMap (wireItems c)) = .ok (commands.map .whole) ∧
    ∀ (i : Instr) (opcode : Byte) (payload : List Byte) (n : Nat), i.wellFormed c = true →
      encodeWire c i = some (opcode, payload) → n < payload.length →
      ∃ cut, decodeTrace c (commands.flatMap (wireItems c) ++ (wireItems c i).take (n + 1)) =
          .ok (commands.map .whole ++ [cut]) ∧
        (cut = .truncated opcode (payload.take n) ∨
         ∃ colors, i = .memoryWrite colors ∧ 0 < n ∧ n = 2 * (n / 2) ∧ cut = .whole (.memoryWrite (colors.take (n / 2)))))

/-- 30_encoding.md rules R88 and R92: the wire decoder reads nothing but encodings: bytes it reads as an instruction are that
instruction's opcode byte and payload (but for the value of the one payload byte of `set_color_mode`, which it does not
look at, log entry 5), and bytes whose first is none of the nine opcodes are refused. In the model's own terms (log entry
4), a memory write with no colour (`n ≥ 1`, 41_register_protocol.md rule R136) is refused, and bytes at the direct port
that are none of the nine commands stop the machine with a fault. -/
def Obligations.MalformedWireCommandsStop : Prop :=
  (∀ (c : Cfg) (bytes : List Byte) (i : Instr), decodeWire c bytes = .ok i →
    ∃ opcode payload, encodeWire c i = some (opcode, payload) ∧
      (bytes = opcode :: payload ∨ (i = .setColorMode ∧ ∃ b, bytes = [opcode, b]))) ∧
  (∀ (c : Cfg) (opcode : Byte) (payload : List Byte), opcode ∉ opcodes c →
    decodeWire c (opcode :: payload) = .error (.unknownOpcode opcode)) ∧
  (∀ s : State, cfgValid s.cfg = true → exec (.memoryWrite []) s = .refused .emptyPixelList) ∧
  (∀ (s : State) (bytes : List Byte) (why : DecodeError), cfgValid s.cfg = true → s.busy = false →
    s.direct = some bytes → decodeWire s.cfg bytes = .error why → step s = .fault (.notAWireCommand why))

/-! ### Errors -/

/-- 60_exceptions.md rule R262: `FILL_RECT`, `DRAW_IMAGE` (unless its rectangle is empty and the policy is `noop`) and
`SET_OFFSET` answer `OutOfBounds` when their check fails, with no wire event, no stream item pulled and no state change;
and whatever request is answered `OutOfBounds` is one of the three with its check failed, none other raises it. -/
def Obligations.OutOfBoundsSendsNothing : Prop :=
  (∀ (s : State) (xs xe ys ye : U16) (color : Color), s.serves = true →
    winOK s.rot s.pw.toNat s.ph.toNat xs.toNat xe.toNat ys.toNat ye.toNat = false →
    exec (.fillRect xs xe ys ye color) s = .next (s.answered .outOfBounds)) ∧
  (∀ (s : State) (x y w h : U16), s.serves = true →
    rectOK s.rot s.pw.toNat s.ph.toNat x.toNat y.toNat w.toNat h.toNat = false →
    ((w = 0 ∨ h = 0) → s.cfg.emptyRectPolicy = .reject) →
    exec (.drawImage x y w h) s = .next (s.answered .outOfBounds)) ∧
  (∀ (s : State) (offset : U16), s.serves = true → s.scr.area.toNat ≤ offset.toNat →
    exec (.setOffset offset) s = .next (s.answered .outOfBounds)) ∧
  (∀ (s t : State) (i : Instr) (w : ResponseWord), i.isWire = false → exec i s = .next t →
    t.responses = s.responses ++ [w] → responseCode w = 2 →
    t = s.answered .outOfBounds ∧
    ((∃ xs xe ys ye color, i = .fillRect xs xe ys ye color ∧
        winOK s.rot s.pw.toNat s.ph.toNat xs.toNat xe.toNat ys.toNat ye.toNat = false) ∨
     (∃ x y w h, i = .drawImage x y w h ∧
        rectOK s.rot s.pw.toNat s.ph.toNat x.toNat y.toNat w.toNat h.toNat = false) ∨
     (∃ offset, i = .setOffset offset ∧ s.scr.area.toNat ≤ offset.toNat)))

/-- 60_exceptions.md rule R263: a layout whose exact sum is not `PH` is answered `InvalidScrollLayout`, with no wire event
and no state change, and no other request is. -/
def Obligations.InvalidScrollLayoutSendsNothing : Prop :=
  (∀ (s : State) (top area bottom : U16), s.serves = true →
    top.toNat + area.toNat + bottom.toNat ≠ s.ph.toNat →
    exec (.configureScroll top area bottom) s = .next (s.answered .invalidScrollLayout)) ∧
  (∀ (s t : State) (i : Instr) (w : ResponseWord), i.isWire = false → exec i s = .next t →
    t.responses = s.responses ++ [w] → responseCode w = 3 →
    t = s.answered .invalidScrollLayout ∧
    ∃ top area bottom, i = .configureScroll top area bottom ∧
      top.toNat + area.toNat + bottom.toNat ≠ s.ph.toNat)

/-- 60_exceptions.md rule R261: a request answered `TransportError` is not `INIT`; it ran in `READY` and stays there, set
`XFAULT`, committed nothing, and its events end at the faulted burst, every event before it complete. A request other
than `INIT` one of whose bursts faults is answered `TransportError`. -/
def Obligations.TransportErrorCommitsNothing : Prop :=
  (∀ (s t : State) (i : Instr) (w : ResponseWord), i.isWire = false → exec i s = .next t →
    t.responses = s.responses ++ [w] → responseCode w = 1 →
    i ≠ .init ∧ s.phase = .ready ∧ t.phase = .ready ∧ t.xfault = true ∧ t.rot = s.rot ∧ t.scr = s.scr ∧
    ∃ sent level bytes, t.trace = s.trace ++ sent ++ [.burst level bytes .faulted] ∧
      sent.all Event.completed = true) ∧
  (∀ (s t : State) (i : Instr) (sent : List Event), i.isWire = false → i ≠ .init → exec i s = .next t →
    t.trace = s.trace ++ sent → sent.any Event.isFault = true →
    t.responses = s.responses ++ [responseWord .transportError true .ready])

/-- 40_transport.md rules R110, R114 and R115, 30_encoding.md rule R97: whichever burst of a request faults (the burst
numbered `k` of the events the request sends when it runs to its end), the bursts before it went out, that one was cut
after `n` bytes, and the request ends there with `TransportError`: nothing follows, nothing is committed, and no register
but `XFAULT` and the D/C line changes. Of `DRAW_IMAGE` the bursts before its pixel data are meant. The bursts of `INIT`
are in `FailedInitLeavesADeadBlock`, those of `DRAW_PIXELS` in `DrawPixelsStopsAtTheFault`, the pixel data of
`DRAW_IMAGE` in `FaultedImageStopsInsideItsPixels`. -/
def Obligations.FaultedBurstEndsTheRequest : Prop :=
  ∀ (s : State) (i : Instr) (events : List Event) (k n ahead : Nat) (level : Level) (bytes : List Byte),
    s.serves = true → events[k]? = some (.burst level bytes .complete) → s.env.clear k = true →
    (s.env.after k).verdict = .fault n ahead →
    ((∃ rotation, i = .setOrientation rotation ∧
       events = [cmd s.cfg.opcMadctl, dat [madctl s.cfg rotation s.mir]]) ∨
     (∃ color, i = .clear color ∧
       events = storeEvents s.cfg s.fullWindow (colorBytes (List.replicate (s.pw.toNat * s.ph.toNat) color))) ∨
     (∃ xs xe ys ye color, i = .fillRect xs xe ys ye color ∧
       winOK s.rot s.pw.toNat s.ph.toNat xs.toNat xe.toNat ys.toNat ye.toNat = true ∧
       events =
         let w := xe.toNat - xs.toNat + 1
         let h := ye.toNat - ys.toNat + 1
         storeEvents s.cfg (s.translate xs.toNat ys.toNat w h) (colorBytes (List.replicate (w * h) color))) ∨
     (∃ x y w h, i = .drawImage x y w h ∧
       rectOK s.rot s.pw.toNat s.ph.toNat x.toNat y.toNat w.toNat h.toNat = true ∧
       events = (storeEvents s.cfg (s.translate x.toNat y.toNat w.toNat h.toNat) []).take 5) ∨
     (∃ top area bottom, i = .configureScroll top area bottom ∧
       top.toNat + area.toNat + bottom.toNat = s.ph.toNat ∧
       events = [cmd s.cfg.opcVscrdef, dat [hi8 top, lo8 top, hi8 area, lo8 area, hi8 bottom, lo8 bottom]]) ∨
     (∃ offset, i = .setOffset offset ∧ offset.toNat < s.scr.area.toNat ∧
       events = [cmd s.cfg.opcVscsad, dat [hi8 offset, lo8 offset]])) →
    exec i s = .next { s with
      trace := s.trace ++ events.take k ++ [.burst level (bytes.take n) .faulted], dcl := level.line s.cfg,
      xfault := true,
      responses := s.responses ++ [responseWord .transportError true s.phase], busy := false, stream := .none,
      env := { s.env with bursts := s.env.bursts.drop (k + 1) } }

/-- 43_drawing_surface.md rule R192: when a burst of an item of `DRAW_PIXELS` faults (the burst numbered `k` of its six),
the items before it have been served in full, that item's bursts end at the fault, the items after it have not been
pulled, and the answer is `TransportError`. -/
def Obligations.DrawPixelsStopsAtTheFault : Prop :=
  ∀ (s : State) (before rest : List PixelItem) (item : PixelItem) (k n ahead : Nat) (level : Level) (bytes : List Byte),
    let inside := before.filter fun t => positionInside s.rot s.pw.toNat s.ph.toNat (Item.x t) (Item.y t)
    let events := fun t : PixelItem =>
      storeEvents s.cfg (s.translate (Item.x t).toNat (Item.y t).toNat 1 1) [hi8 (Item.color t), lo8 (Item.color t)]
    s.serves = true → s.stream = .pixels (before ++ item :: rest) →
    before.all (fun t => !Item.isEnd t) = true → Item.isEnd item = false →
    positionInside s.rot s.pw.toNat s.ph.toNat (Item.x item) (Item.y item) = true →
    (events item)[k]? = some (.burst level bytes .complete) →
    s.env.clear (6 * inside.length + k) = true → (s.env.after (6 * inside.length + k)).verdict = .fault n ahead →
    exec .drawPixels s = .next { s with
      trace := s.trace ++ inside.flatMap events ++ (events item).take k ++ [.burst level (bytes.take n) .faulted],
      dcl := level.line s.cfg, xfault := true,
      responses := s.responses ++ [responseWord .transportError true s.phase], busy := false, stream := .none,
      pulled := s.pulled + before.length + 1,
      env := { s.env with bursts := s.env.bursts.drop (6 * inside.length + k + 1) } }

/-- 40_transport.md rule R119: when the pixel burst of a `DRAW_IMAGE` whose stream is long enough faults after `n` bytes,
those bytes of the stream's pixels went out and at least `2·⌈n/2⌉` stream bytes had been pulled. How many beyond that is
not stated by the rule: the model takes it from the transport's verdict (log entry 15), up to the image's `2·w·h` bytes,
beyond which 20_memory.md rule R55 says that none is consumed (43_drawing_surface.md rule R194 pulls no more). -/
def Obligations.FaultedImageStopsInsideItsPixels : Prop :=
  ∀ (s : State) (x y w h : U16) (bytes : List Byte) (n ahead : Nat),
    let total := 2 * (w.toNat * h.toNat)
    s.serves = true → rectOK s.rot s.pw.toNat s.ph.toNat x.toNat y.toNat w.toNat h.toNat = true →
    s.stream = .bytes bytes → total ≤ bytes.length →
    s.env.clear 5 = true → (s.env.after 5).verdict = .fault n ahead →
    ∃ t, exec (.drawImage x y w h) s = .next t ∧
      t.trace = s.trace ++ (storeEvents s.cfg (s.translate x.toNat y.toNat w.toNat h.toNat) []).take 5 ++
        [.burst .data ((colorBytes (imageColors (bytes.take total))).take n) .faulted] ∧
      t.responses = s.responses ++ [responseWord .transportError true s.phase] ∧ t.xfault = true ∧
      s.pulled + 2 * ((min n total + 1) / 2) ≤ t.pulled ∧ t.pulled ≤ s.pulled + total

/-- 10_state.md rule R26: after any request but `INIT`, and after any wire command, `XFAULT` is 1 exactly if it was 1
before or a burst of that instruction faulted; the trace before stays as it was. -/
def Obligations.XfaultRecordsFaultedBursts : Prop :=
  ∀ (s t : State) (i : Instr), i ≠ .init → exec i s = .next t →
    ∃ sent, t.trace = s.trace ++ sent ∧ t.xfault = (s.xfault || sent.any Event.isFault)

/-- 20_memory.md rule R55 and 93_implementation_defined.md U7: where the transport does not fault and the stream is too
short for the image, or holds no end item for the pixels, the model refuses the request. -/
def Obligations.ExhaustedStreamsAreRefused : Prop :=
  (∀ (s : State) (x y w h : U16), s.serves = true → s.env.clear 6 = true →
    rectOK s.rot s.pw.toNat s.ph.toNat x.toNat y.toNat w.toNat h.toNat = true →
    s.stream.byteItems.length < 2 * (w.toNat * h.toNat) →
    exec (.drawImage x y w h) s = .refused .streamExhausted) ∧
  (∀ s : State, s.serves = true → s.env.clear (6 * s.stream.pixelItems.length) = true →
    s.stream.pixelItems.all (fun t => !Item.isEnd t) = true →
    exec .drawPixels s = .refused .streamExhausted)

/-- 40_transport.md rules R115 and R117, 70_reset_and_hazards.md rule R316. A transport or a delay provider that never
returns leaves the block waiting: where the burst numbered `k` of a request is the first that does not complete and is
never reported after `n` bytes, the trace grows by the events before it and the stalled burst (the mark is the model's,
log entry 8), `BUSY` is 1, and no response is given and no register but the D/C line changes; so for every burst of every
request, of `INIT` and of every wire command, and likewise for each of the two delays of `INIT`. Conversely a request of
an idle block that leaves `BUSY` at 1 has been given no response and sent its last event incomplete or a delay, and every
later step finds the block still waiting (log entry 14), unless the platform resets it. -/
def Obligations.RequestThatNeverReturnsIsNeverAnswered : Prop :=
  (∀ (s : State) (i : Instr) (events : List Event) (k n ahead : Nat) (level : Level) (bytes : List Byte),
    s.serves = true → Sends s i events → events[k]? = some (.burst level bytes .complete) → s.env.clear k = true →
    (s.env.after k).verdict = .hang n ahead →
    ∃ stream pulled, exec i s = .next { s with
      trace := s.trace ++ events.take k ++ [.burst level (bytes.take n) .stalled], dcl := level.line s.cfg, busy := true,
      stream := stream, pulled := pulled, env := { s.env with bursts := s.env.bursts.drop (k + 1) } }) ∧
  (∀ (s : State) (k n ahead : Nat) (level : Level) (bytes : List Byte), cfgValid s.cfg = true → s.phase ≠ .dead →
    s.env.returns 2 = true → (initEvents s)[4 + k]? = some (.burst level bytes .complete) → s.env.clear k = true →
    (s.env.after k).verdict = .hang n ahead → (3 ≤ k → s.env.initAck = true) →
    exec .init s = .next { s with
      trace := s.trace ++ (initEvents s).take (4 + k) ++ [.burst level (bytes.take n) .stalled],
      rstl := 1, dcl := level.line s.cfg, busy := true,
      env := { bursts := s.env.bursts.drop (k + 1), delays := s.env.delays.drop 2,
               acks := s.env.acks.drop (if 3 ≤ k then 1 else 0) } }) ∧
  (∀ (s : State) (delays : List Bool), cfgValid s.cfg = true → s.phase ≠ .dead →
    (s.env.delays = false :: delays → exec .init s = .next { s with
      trace := s.trace ++ (initEvents s).take 2, rstl := 0, busy := true, env := { s.env with delays := delays } }) ∧
    (s.env.delays = true :: false :: delays → exec .init s = .next { s with
      trace := s.trace ++ (initEvents s).take 4, rstl := 1, busy := true, env := { s.env with delays := delays } })) ∧
  (∀ (s : State) (i : Instr) (k n ahead : Nat) (level : Level) (bytes : List Byte), cfgValid s.cfg = true →
    i.wellFormed s.cfg = true → (wireEvents s.cfg i)[k]? = some (.burst level bytes .complete) →
    s.env.clear k = true → (s.env.after k).verdict = .hang n ahead →
    exec i s = .next { s with
      trace := s.trace ++ (wireEvents s.cfg i).take k ++ [.burst level (bytes.take n) .stalled],
      dcl := level.line s.cfg, busy := true, env := { s.env with bursts := s.env.bursts.drop (k + 1) } }) ∧
  (∀ (s t : State), s.idle = true → step s = .next t → t.busy = true →
    t.responses = s.responses ∧ t.phase = s.phase ∧ t.rot = s.rot ∧ t.scr = s.scr ∧
    (∃ sent, t.trace = s.trace ++ sent ∧
      ((∃ ms, sent.getLast? = some (.dly ms)) ∨ ∃ level bytes, sent.getLast? = some (.burst level bytes .stalled))) ∧
    ((∀ rest, t.inbox ≠ .blockReset :: rest) → step t = .next t))

/-- 30_encoding.md rule R85: a request the block accepts and finishes produces exactly one response, whose bits 2:0 are a
code of 0 to 6, bit 3 the `XFAULT` and bits 5:4 the `PHASE` after the request (0 `UNINIT`, 1 `READY`, 2 `DEAD`). -/
def Obligations.EveryFinishedRequestHasOneResponse : Prop :=
  ∀ (s t : State) (d : Descriptor) (stream : StreamPort) (rest : List HostInput),
    s.idle = true → s.inbox = .request d stream :: rest → step s = .next t → t.busy = false →
    ∃ w : ResponseWord, t.responses = s.responses ++ [w] ∧
      responseCode w ≤ 6 ∧ w.getLsbD 3 = t.xfault ∧
      (w.extractLsb' 4 2).toNat = (match t.phase with | .uninit => 0 | .ready => 1 | .dead => 2)

/-! ### What a request leaves alone -/

/-- 43_drawing_surface.md rule R190 (a): a drawing request changes no register but `XFAULT`, `DCL` and `BUSY`; beside
these only the trace, which grows, the responses, the stream port and the environment differ. -/
def Obligations.DrawingRequestsKeepTheRegisters : Prop :=
  ∀ (s t : State) (i : Instr), drawsPixels i = true → exec i s = .next t →
    ∃ sent, t = { s with
      trace := s.trace ++ sent, xfault := t.xfault, dcl := t.dcl, busy := t.busy, responses := t.responses,
      stream := t.stream, pulled := t.pulled, env := t.env }

/-- 42_orientation_addressing.md rule R168, 44_scroll.md rules R220, R221 and R223, 45_init.md rule R240: beside what
every request may change, `SET_ORIENTATION` changes `ROT` only, the scroll requests `SCR` only, and `INIT` `SCR`,
`PHASE` and `RSTL` only. -/
def Obligations.ControlRequestsKeepTheOtherRegisters : Prop :=
  (∀ (s t : State) (rotation : BitVec 2), exec (.setOrientation rotation) s = .next t →
    ∃ sent, t = { s with
      rot := t.rot, trace := s.trace ++ sent, xfault := t.xfault, dcl := t.dcl, busy := t.busy,
      responses := t.responses, stream := t.stream, env := t.env } ∧ (t.rot = s.rot ∨ t.rot = rotation)) ∧
  (∀ (s t : State) (i : Instr), isScroll i = true → exec i s = .next t →
    ∃ sent, t = { s with
      scr := t.scr, trace := s.trace ++ sent, xfault := t.xfault, dcl := t.dcl, busy := t.busy,
      responses := t.responses, stream := t.stream, env := t.env }) ∧
  (∀ s t : State, exec .init s = .next t →
    ∃ sent, t = { s with
      scr := t.scr, phase := t.phase, rstl := t.rstl, trace := s.trace ++ sent, xfault := t.xfault, dcl := t.dcl,
      busy := t.busy, responses := t.responses, stream := t.stream, env := t.env })

/-- 41_register_protocol.md rule R130: a wire command changes no register but `DCL` and `XFAULT`, and `BUSY` only where
its last burst is one the transport never reported; it produces no response. -/
def Obligations.WireCommandsKeepTheRegisters : Prop :=
  ∀ (s t : State) (i : Instr), i.isWire = true → exec i s = .next t →
    ∃ sent, t = { s with
      trace := s.trace ++ sent, xfault := t.xfault, dcl := t.dcl, busy := t.busy, env := t.env,
      directResults := t.directResults } ∧
      (t.busy = s.busy ∨ (t.busy = true ∧ ∃ level bytes, sent.getLast? = some (.burst level bytes .stalled)))

/-- 10_state.md rules R28 ("no request reads the latch contents of an earlier request") and R30: no outcome depends on what
the latch or the D/C line held before. In this model an instruction's operands come decoded from the descriptor, which the
step puts into the latch; two runs of an instruction that differ only in `REQ` and `DCL` end the same way, in states that
differ at most there. -/
def Obligations.LatchAndDataCommandLineAreNeverRead : Prop :=
  ∀ (s : State) (i : Instr) (d : Descriptor) (l : BitVec 1),
    mapNext (fun t => { t with req := 0, dcl := 0 }) (exec i { s with req := d, dcl := l }) =
    mapNext (fun t => { t with req := 0, dcl := 0 }) (exec i s)

/-- 43_drawing_surface.md rule R190 (b) and 42_orientation_addressing.md rule R166: a drawing request reads neither `SCR`
nor `MIR`: changing them beforehand changes nothing else about its outcome. -/
def Obligations.DrawingReadsNeitherScrollNorMirror : Prop :=
  ∀ (s : State) (i : Instr) (scr : Scroll) (mir : Bool), drawsPixels i = true →
    exec i { s with scr := scr, mir := mir } = mapNext (fun t => { t with scr := scr, mir := mir }) (exec i s)

/-- 44_scroll.md rule R223: neither scroll request reads `ROT` or `MIR`. -/
def Obligations.ScrollReadsNeitherRotationNorMirror : Prop :=
  ∀ (s : State) (i : Instr) (rot : BitVec 2) (mir : Bool), isScroll i = true →
    exec i { s with rot := rot, mir := mir } = mapNext (fun t => { t with rot := rot, mir := mir }) (exec i s)

/-! ### The mapper -/

/-- 42_orientation_addressing.md rule R165: the round-trip law, for every rotation and both senses. -/
def Obligations.UntranslateUndoesTranslate : Prop :=
  ∀ (sense : RotSense) (rot : BitVec 2) (pw ph : U16) (x y w h : Nat),
    rectOK rot pw.toNat ph.toNat x y w h = true →
    untranslateWindow sense rot pw.toNat ph.toNat (translateRect sense rot pw.toNat ph.toNat x y w h) =
      { x := x, y := y, w := w, h := h }

/-- 42_orientation_addressing.md rule R164: with the sense `cw`, the translated window of a rectangle inside the bounds
has the bounds the rule's table gives, with the sense `ccw` the rows of 90° and 270° are exchanged, and it is a window
inside the panel. -/
def Obligations.TranslateFollowsItsTable : Prop :=
  ∀ (sense : RotSense) (rot : BitVec 2) (pw ph : U16) (x y w h : Nat),
    rectOK rot pw.toNat ph.toNat x y w h = true →
    let win := translateRect sense rot pw.toNat ph.toNat x y w h
    let bounds := (win.xStart.toNat, win.xEnd.toNat, win.yStart.toNat, win.yEnd.toNat)
    windowPhysical pw.toNat ph.toNat win = true ∧
    (rot = 0 → bounds = (x, x + w - 1, y, y + h - 1)) ∧
    (rot = 2 → bounds = (pw.toNat - 1 - (x + w - 1), pw.toNat - 1 - x, ph.toNat - 1 - (y + h - 1), ph.toNat - 1 - y)) ∧
    ((rot = 1 ∧ sense = .cw) ∨ (rot = 3 ∧ sense = .ccw) →
      bounds = (pw.toNat - 1 - (y + h - 1), pw.toNat - 1 - y, x, x + w - 1)) ∧
    ((rot = 3 ∧ sense = .cw) ∨ (rot = 1 ∧ sense = .ccw) →
      bounds = (y, y + h - 1, ph.toNat - 1 - (x + w - 1), ph.toNat - 1 - x))

/-- 42_orientation_addressing.md rule R167: (a) the pixel count is kept, the physical width is `w` at 0° and 180° and `h`
at 90° and 270°; (b) the full logical screen maps to the full physical screen at every rotation. -/
def Obligations.TranslateKeepsThePixelCountAndTheFullScreen : Prop :=
  (∀ (sense : RotSense) (rot : BitVec 2) (pw ph : U16) (x y w h : Nat),
    rectOK rot pw.toNat ph.toNat x y w h = true →
    let win := translateRect sense rot pw.toNat ph.toNat x y w h
    win.pixels = w * h ∧
    ((rot = 0 ∨ rot = 2) → win.xEnd.toNat - win.xStart.toNat + 1 = w) ∧
    ((rot = 1 ∨ rot = 3) → win.xEnd.toNat - win.xStart.toNat + 1 = h)) ∧
  (∀ (sense : RotSense) (rot : BitVec 2) (pw ph : U16), 0 < pw.toNat → 0 < ph.toNat →
    translateRect sense rot pw.toNat ph.toNat 0 0 (logicalWidth rot pw.toNat ph.toNat) (logicalHeight rot pw.toNat ph.toNat) =
      windowOf 0 (pw.toNat - 1) 0 (ph.toNat - 1))

/-- 42_orientation_addressing.md rule R163: `Translate` is a bijection of positions: every physical position is the image
of exactly one logical position. -/
def Obligations.EveryPhysicalPositionHasOneLogicalPosition : Prop :=
  ∀ (sense : RotSense) (rot : BitVec 2) (pw ph : U16) (px py : Nat), px < pw.toNat → py < ph.toNat →
    ∃! p : Nat × Nat, p.1 < logicalWidth rot pw.toNat ph.toNat ∧ p.2 < logicalHeight rot pw.toNat ph.toNat ∧
      translateRect sense rot pw.toNat ph.toNat p.1 p.2 1 1 = windowOf px px py py

/-- 42_orientation_addressing.md rule R162: `WinOK` of a window's ends is `RectOK` of its origin and its inclusive size,
for windows that are not inverted; an inverted window fails it. -/
def Obligations.WinOKIsRectOKOfTheCoveredRectangle : Prop :=
  ∀ (rot : BitVec 2) (pw ph xs xe ys ye : Nat),
    (xs ≤ xe → ys ≤ ye → winOK rot pw ph xs xe ys ye = rectOK rot pw ph xs ys (xe - xs + 1) (ye - ys + 1)) ∧
    (xe < xs ∨ ye < ys → winOK rot pw ph xs xe ys ye = false)

/-- 42_orientation_addressing.md rule R161: the table of the eight combinations with the default masks. -/
def Obligations.OrientationByteTable : Prop :=
  madctl Cfg.default 0 false = 0x00 ∧ madctl Cfg.default 0 true = 0x40 ∧
  madctl Cfg.default 1 false = 0x20 ∧ madctl Cfg.default 1 true = 0x60 ∧
  madctl Cfg.default 2 false = 0x40 ∧ madctl Cfg.default 2 true = 0x00 ∧
  madctl Cfg.default 3 false = 0x60 ∧ madctl Cfg.default 3 true = 0x20

/-- 42_orientation_addressing.md rule R160: under any valid configuration the row/column exchange flag of the orientation
byte is set at 90° and 270° only, the column address order flag at 180° and 270° only, inverted by the mirrored flag, and
every other bit is that of `MADCTL_BASE`. -/
def Obligations.OrientationByteFlags : Prop :=
  ∀ (c : Cfg) (rot : BitVec 2) (mir : Bool), cfgValid c = true →
    (madctl c rot mir &&& c.madctlMv ≠ 0 ↔ (rot = 1 ∨ rot = 3)) ∧
    (madctl c rot mir &&& c.madctlMx ≠ 0 ↔ ((rot = 2 ∨ rot = 3) ↔ mir = false)) ∧
    madctl c rot mir &&& ~~~(c.madctlMv ||| c.madctlMx) = c.madctlBase

/-! ### Bytes -/

/-- 20_memory.md rule R54: pixel `i` of an image stream has the colour `stream[2i+1] ++ stream[2i]`, and the wire carries
`stream[2i+1]` then `stream[2i]`. -/
def Obligations.ImageStreamBytesAreSwappedInPairs : Prop :=
  ∀ (n : Nat) (stream : List Byte), stream.length = 2 * n →
    (imageColors stream).length = n ∧ (colorBytes (imageColors stream)).length = 2 * n ∧
    ∀ (i : Nat) (lo hi : Byte), stream[2 * i]? = some lo → stream[2 * i + 1]? = some hi →
      (imageColors stream)[i]? = some (join16 hi lo) ∧
      (colorBytes (imageColors stream))[2 * i]? = some hi ∧ (colorBytes (imageColors stream))[2 * i + 1]? = some lo

/-- 70_reset_and_hazards.md rule R315: the byte counts of the requests that run to their end. -/
def Obligations.RequestsSendTheirByteCounts : Prop :=
  ∀ (s : State) (i : Instr) (n : Nat), s.serves = true → s.env.clear 6 = true → s.env.returns 2 = true →
    s.env.initAck = true →
    ((i = .init ∧ n = 6) ∨
     (∃ rotation, i = .setOrientation rotation ∧ n = 2) ∨
     (∃ color, i = .clear color ∧ n = 11 + 2 * (s.pw.toNat * s.ph.toNat)) ∨
     (∃ item last, i = .drawPixels ∧ s.stream = .pixels [item, last] ∧ Item.isEnd item = false ∧
       Item.isEnd last = true ∧ positionInside s.rot s.pw.toNat s.ph.toNat (Item.x item) (Item.y item) = true ∧
       n = 13) ∨
     (∃ xs xe ys ye color, i = .fillRect xs xe ys ye color ∧
       winOK s.rot s.pw.toNat s.ph.toNat xs.toNat xe.toNat ys.toNat ye.toNat = true ∧
       n = 11 + 2 * ((xe.toNat - xs.toNat + 1) * (ye.toNat - ys.toNat + 1))) ∨
     (∃ x y w h bytes, i = .drawImage x y w h ∧
       rectOK s.rot s.pw.toNat s.ph.toNat x.toNat y.toNat w.toNat h.toNat = true ∧
       s.stream = .bytes bytes ∧ bytes.length = 2 * (w.toNat * h.toNat) ∧
       n = 11 + 2 * (w.toNat * h.toNat)) ∨
     (∃ top area bottom, i = .configureScroll top area bottom ∧
       top.toNat + area.toNat + bottom.toNat = s.ph.toNat ∧ n = 7) ∨
     (∃ offset, i = .setOffset offset ∧ offset.toNat < s.scr.area.toNat ∧ n = 3)) →
    ∃ t, exec i s = .next t ∧ byteCount t.trace = byteCount s.trace + n

/-- 43_drawing_surface.md rules R193 and R197: the full logical screen filled sends what `CLEAR` sends; a one-pixel window
filled sends what `DRAW_PIXELS` sends for that position; and `DRAW_PIXELS` after a `CLEAR` sends what it sends with none
before it. Each is said of the events added to the trace. -/
def Obligations.EqualWindowsSendEqualBytes : Prop :=
  (∀ (s t u : State) (xe ye : U16) (color : Color), s.serves = true → s.env.clear 6 = true →
    xe.toNat + 1 = s.lw → ye.toNat + 1 = s.lh →
    exec (.fillRect 0 xe 0 ye color) s = .next t → exec (.clear color) s = .next u → t.trace = u.trace) ∧
  (∀ (s t u : State) (x y : BitVec 32) (xp yp : U16) (color : Color), s.serves = true → s.env.clear 6 = true →
    x.toInt = (xp.toNat : Int) → y.toInt = (yp.toNat : Int) →
    winOK s.rot s.pw.toNat s.ph.toNat xp.toNat xp.toNat yp.toNat yp.toNat = true →
    exec (.fillRect xp xp yp yp color) s = .next t →
    exec .drawPixels { s with stream := .pixels [itemOf false x y color, itemOf true 0 0 0] } = .next u →
    t.trace = u.trace) ∧
  (∀ (s t u v : State) (color : Color) (item : PixelItem), s.serves = true → s.env.clear 12 = true →
    Item.isEnd item = false →
    exec (.clear color) s = .next t →
    exec .drawPixels { t with stream := .pixels [item, itemOf true 0 0 0] } = .next u →
    exec .drawPixels { s with stream := .pixels [item, itemOf true 0 0 0] } = .next v →
    ∃ sent, u.trace = t.trace ++ sent ∧ v.trace = s.trace ++ sent)

/-- 30_encoding.md rule R94: a `draw_pixels` request with `k + 1` items has the wire output and the final registers of its
first item drawn alone and then the other `k`, provided no burst faults. -/
def Obligations.DrawPixelsIsItsItemsOneByOne : Prop :=
  ∀ (s t u v : State) (item last : PixelItem) (items : List PixelItem), s.serves = true →
    Item.isEnd item = false → items.all (fun p => !Item.isEnd p) = true → Item.isEnd last = true →
    s.env.clear (6 * (items.length + 1)) = true →
    exec .drawPixels { s with stream := .pixels (item :: items ++ [last]) } = .next t →
    exec .drawPixels { s with stream := .pixels [item, last] } = .next u →
    exec .drawPixels { u with stream := .pixels (items ++ [last]) } = .next v →
    v = { t with responses := v.responses, pulled := v.pulled } ∧ v.responses = t.responses ++ [responseWord .ok s.xfault s.phase]

/-! ### The pixel space -/

/-- 20_memory.md rules R50 and R56, 43_drawing_surface.md rules R191 and R193, as an observer of the trace sees them: after
a `FILL_RECT` inside the bounds, and after a `CLEAR` of the panel, every pixel of the window sent holds the colour and
every other address reads as before. -/
def Obligations.FillsStoreTheirWindowAndNothingElse : Prop :=
  (∀ (s : State) (xs xe ys ye : U16) (color : Color), s.serves = true → s.env.clear 6 = true →
    winOK s.rot s.pw.toNat s.ph.toNat xs.toNat xe.toNat ys.toNat ye.toNat = true →
    ∃ t, exec (.fillRect xs xe ys ye color) s = .next t ∧
      ∀ a, Memory.read (pixelSpace t.cfg t.trace) a =
        if a ∈ windowAddresses (s.translate xs.toNat ys.toNat (xe.toNat - xs.toNat + 1) (ye.toNat - ys.toNat + 1))
        then some color else Memory.read (pixelSpace s.cfg s.trace) a) ∧
  (∀ (s : State) (color : Color), s.serves = true → strapsOk s = true → s.env.clear 6 = true →
    ∃ t, exec (.clear color) s = .next t ∧
      ∀ a, Memory.read (pixelSpace t.cfg t.trace) a =
        if a ∈ windowAddresses s.fullWindow then some color else Memory.read (pixelSpace s.cfg s.trace) a)

/-- 20_memory.md rules R50 and R56, as an observer of the trace sees them: a `DRAW_IMAGE` that runs to its end leaves every
address outside its window as it was; a one-item `DRAW_PIXELS` inside the bounds stores its colour at its position only; a
memory write by itself leaves every address outside the window last set as it was, and where that window is inverted, so
that the spec knows of no pixels it names, the contents of every address are unknown (the model's choice, log entry 10);
`SET_ORIENTATION`, the scroll requests and every other wire command store nothing. -/
def Obligations.OtherInstructionsStoreOnlyInTheirWindow : Prop :=
  (∀ (s : State) (x y w h : U16) (bytes : List Byte), s.serves = true → s.env.clear 6 = true →
    rectOK s.rot s.pw.toNat s.ph.toNat x.toNat y.toNat w.toNat h.toNat = true →
    s.stream = .bytes bytes → 2 * (w.toNat * h.toNat) ≤ bytes.length →
    ∃ t, exec (.drawImage x y w h) s = .next t ∧
      ∀ a, a ∉ windowAddresses (s.translate x.toNat y.toNat w.toNat h.toNat) →
        Memory.read (pixelSpace t.cfg t.trace) a = Memory.read (pixelSpace s.cfg s.trace) a) ∧
  (∀ (s : State) (item last : PixelItem), s.serves = true → s.env.clear 6 = true →
    s.stream = .pixels [item, last] → Item.isEnd item = false → Item.isEnd last = true →
    positionInside s.rot s.pw.toNat s.ph.toNat (Item.x item) (Item.y item) = true →
    ∃ t, exec .drawPixels s = .next t ∧
      ∀ a, Memory.read (pixelSpace t.cfg t.trace) a =
        if a ∈ windowAddresses (s.translate (Item.x item).toNat (Item.y item).toNat 1 1)
        then some (Item.color item) else Memory.read (pixelSpace s.cfg s.trace) a) ∧
  (∀ (s : State) (colors : List Color) (win : AddressWindow), cfgValid s.cfg = true → s.env.clear 2 = true →
    colors ≠ [] → colors.length = win.pixels →
    (observe s.cfg s.trace).columns = some (win.xStart, win.xEnd) →
    (observe s.cfg s.trace).rows = some (win.yStart, win.yEnd) →
    ∃ t, exec (.memoryWrite colors) s = .next t ∧
      (win.inverted = false → ∀ a, a ∉ windowAddresses win →
        Memory.read (pixelSpace t.cfg t.trace) a = Memory.read (pixelSpace s.cfg s.trace) a) ∧
      (win.inverted = true → ∀ a, Memory.read (pixelSpace t.cfg t.trace) a = none)) ∧
  (∀ (s t : State) (i : Instr), s.env.clear 2 = true →
    ((∃ rotation, i = .setOrientation rotation) ∨ isScroll i = true ∨
      (i.isWire = true ∧ ∀ colors, i ≠ .memoryWrite colors)) → exec i s = .next t →
    ∀ a, Memory.read (pixelSpace t.cfg t.trace) a = Memory.read (pixelSpace s.cfg s.trace) a)

/-! ### The whole machine -/

/-- 30_encoding.md rule R98, 10_state.md rules R21 and R24, 45_init.md rule R244: every step keeps the invariant: the
straps, the scroll shadow, the order of the trace (every command byte is one of the nine opcodes and comes after a reset
pulse, a row command directly follows a complete column command, a memory write directly follows a complete window and
carries two bytes a pixel of it), and a block that is ready has been initialised. -/
def Obligations.EveryStepKeepsTheInvariant : Prop :=
  ∀ s t : State, s.inv = true → step s = .next t → t.inv = true

/-- The same invariant holds after a block reset under any valid configuration, and so in the state the run starts from. -/
def Obligations.ResetMeetsTheInvariant : Prop :=
  State.reset.inv = true ∧ ∀ c : Cfg, cfgValid c = true → (State.resetWith c).inv = true

/-- 10_state.md rule R25: the phase changes only by an `INIT` request, to `READY` or to `DEAD` and never out of `DEAD`, or
by a block reset. -/
def Obligations.PhaseChangesOnlyByInitAndReset : Prop :=
  ∀ s t : State, step s = .next t → t.phase ≠ s.phase →
    (∃ rest, s.inbox = .blockReset :: rest ∧ t.phase = .uninit) ∨
    (∃ d stream rest, s.inbox = .request d stream :: rest ∧ decodeRequest d = .ok .init ∧ s.phase ≠ .dead ∧
      ((t.phase = .ready ∧ t.responses = s.responses ++ [responseWord .ok false .ready]) ∨
       (t.phase = .dead ∧ t.responses = s.responses ++ [responseWord .initError t.xfault .dead])))

/-- 10_state.md rules R21 and R22: no request changes the configuration or the straps, and `ROT` changes only by a
`SET_ORIENTATION` request that completes with `Ok`, or by a block reset. -/
def Obligations.StrapsAndRotationAreKept : Prop :=
  ∀ s t : State, step s = .next t → (∀ rest, s.inbox ≠ .blockReset :: rest) →
    t.cfg = s.cfg ∧ t.pw = s.pw ∧ t.ph = s.ph ∧ t.mir = s.mir ∧
    (t.rot ≠ s.rot → ∃ d stream rest rotation, s.inbox = .request d stream :: rest ∧
      decodeRequest d = .ok (.setOrientation rotation) ∧ t.rot = rotation ∧
      t.responses = s.responses ++ [responseWord .ok t.xfault t.phase])

/-- 20_memory.md rule R60: a step that is not a block reset only adds events after those there are, and takes at most the
first host input. -/
def Obligations.TraceOnlyGrows : Prop :=
  ∀ s t : State, step s = .next t → (∀ rest, s.inbox ≠ .blockReset :: rest) →
    s.trace <+: t.trace ∧ s.responses <+: t.responses ∧ (t.inbox = s.inbox ∨ ∃ input, s.inbox = input :: t.inbox)
end

