-- ==== Sys2Proof/Laws/State.lean ====
section
/-!
SUPPORT. What each update of State does to each of its fields, one lemma per field per update, all by unfolding the one
update. `REQ` and `DCL` after a block reset have no lemma: the spec gives them no value (R37).
-/
namespace Sys2Proof.Machine

/-! `emit`: a wire event (R11) -/

@[simp] theorem emit_cfg (e : Event) (s : State) : (s.emit e).cfg = s.cfg := rfl

@[simp] theorem emit_pw (e : Event) (s : State) : (s.emit e).pw = s.pw := rfl

@[simp] theorem emit_ph (e : Event) (s : State) : (s.emit e).ph = s.ph := rfl

@[simp] theorem emit_mir (e : Event) (s : State) : (s.emit e).mir = s.mir := rfl

@[simp] theorem emit_rot (e : Event) (s : State) : (s.emit e).rot = s.rot := rfl

@[simp] theorem emit_scr (e : Event) (s : State) : (s.emit e).scr = s.scr := rfl

@[simp] theorem emit_phase (e : Event) (s : State) : (s.emit e).phase = s.phase := rfl

@[simp] theorem emit_xfault (e : Event) (s : State) : (s.emit e).xfault = s.xfault := rfl

@[simp] theorem emit_busy (e : Event) (s : State) : (s.emit e).busy = s.busy := rfl

@[simp] theorem emit_req (e : Event) (s : State) : (s.emit e).req = s.req := rfl

@[simp] theorem emit_rstl (e : Event) (s : State) : (s.emit e).rstl = s.rstl := rfl

@[simp] theorem emit_dcl (e : Event) (s : State) : (s.emit e).dcl = s.dcl := rfl

@[simp] theorem emit_trace (e : Event) (s : State) : (s.emit e).trace = s.trace ++ [e] := rfl

@[simp] theorem emit_responses (e : Event) (s : State) : (s.emit e).responses = s.responses := rfl

@[simp] theorem emit_stream (e : Event) (s : State) : (s.emit e).stream = s.stream := rfl

@[simp] theorem emit_pulled (e : Event) (s : State) : (s.emit e).pulled = s.pulled := rfl

@[simp] theorem emit_env (e : Event) (s : State) : (s.emit e).env = s.env := rfl

@[simp] theorem emit_inbox (e : Event) (s : State) : (s.emit e).inbox = s.inbox := rfl

@[simp] theorem emit_direct (e : Event) (s : State) : (s.emit e).direct = s.direct := rfl

@[simp] theorem emit_directResults (e : Event) (s : State) : (s.emit e).directResults = s.directResults := rfl

/-! `startBurst`: the D/C line and the verdict (R110, R113) -/

@[simp] theorem startBurst_cfg (l : Level) (s : State) : (s.startBurst l).cfg = s.cfg := rfl

@[simp] theorem startBurst_pw (l : Level) (s : State) : (s.startBurst l).pw = s.pw := rfl

@[simp] theorem startBurst_ph (l : Level) (s : State) : (s.startBurst l).ph = s.ph := rfl

@[simp] theorem startBurst_mir (l : Level) (s : State) : (s.startBurst l).mir = s.mir := rfl

@[simp] theorem startBurst_rot (l : Level) (s : State) : (s.startBurst l).rot = s.rot := rfl

@[simp] theorem startBurst_scr (l : Level) (s : State) : (s.startBurst l).scr = s.scr := rfl

@[simp] theorem startBurst_phase (l : Level) (s : State) : (s.startBurst l).phase = s.phase := rfl

@[simp] theorem startBurst_xfault (l : Level) (s : State) : (s.startBurst l).xfault = s.xfault := rfl

@[simp] theorem startBurst_busy (l : Level) (s : State) : (s.startBurst l).busy = s.busy := rfl

@[simp] theorem startBurst_req (l : Level) (s : State) : (s.startBurst l).req = s.req := rfl

@[simp] theorem startBurst_rstl (l : Level) (s : State) : (s.startBurst l).rstl = s.rstl := rfl

@[simp] theorem startBurst_dcl (l : Level) (s : State) : (s.startBurst l).dcl = l.line s.cfg := rfl

@[simp] theorem startBurst_trace (l : Level) (s : State) : (s.startBurst l).trace = s.trace := rfl

@[simp] theorem startBurst_responses (l : Level) (s : State) : (s.startBurst l).responses = s.responses := rfl

@[simp] theorem startBurst_stream (l : Level) (s : State) : (s.startBurst l).stream = s.stream := rfl

@[simp] theorem startBurst_pulled (l : Level) (s : State) : (s.startBurst l).pulled = s.pulled := rfl

@[simp] theorem startBurst_env (l : Level) (s : State) : (s.startBurst l).env = s.env.afterBurst := rfl

@[simp] theorem startBurst_inbox (l : Level) (s : State) : (s.startBurst l).inbox = s.inbox := rfl

@[simp] theorem startBurst_direct (l : Level) (s : State) : (s.startBurst l).direct = s.direct := rfl

@[simp] theorem startBurst_directResults (l : Level) (s : State) : (s.startBurst l).directResults = s.directResults := rfl

/-! `pull`: the stream port (R84) -/

@[simp] theorem pull_cfg (n : Nat) (s : State) : (s.pull n).cfg = s.cfg := rfl

@[simp] theorem pull_pw (n : Nat) (s : State) : (s.pull n).pw = s.pw := rfl

@[simp] theorem pull_ph (n : Nat) (s : State) : (s.pull n).ph = s.ph := rfl

@[simp] theorem pull_mir (n : Nat) (s : State) : (s.pull n).mir = s.mir := rfl

@[simp] theorem pull_rot (n : Nat) (s : State) : (s.pull n).rot = s.rot := rfl

@[simp] theorem pull_scr (n : Nat) (s : State) : (s.pull n).scr = s.scr := rfl

@[simp] theorem pull_phase (n : Nat) (s : State) : (s.pull n).phase = s.phase := rfl

@[simp] theorem pull_xfault (n : Nat) (s : State) : (s.pull n).xfault = s.xfault := rfl

@[simp] theorem pull_busy (n : Nat) (s : State) : (s.pull n).busy = s.busy := rfl

@[simp] theorem pull_req (n : Nat) (s : State) : (s.pull n).req = s.req := rfl

@[simp] theorem pull_rstl (n : Nat) (s : State) : (s.pull n).rstl = s.rstl := rfl

@[simp] theorem pull_dcl (n : Nat) (s : State) : (s.pull n).dcl = s.dcl := rfl

@[simp] theorem pull_trace (n : Nat) (s : State) : (s.pull n).trace = s.trace := rfl

@[simp] theorem pull_responses (n : Nat) (s : State) : (s.pull n).responses = s.responses := rfl

@[simp] theorem pull_stream (n : Nat) (s : State) : (s.pull n).stream = s.stream.drop n := rfl

@[simp] theorem pull_pulled (n : Nat) (s : State) : (s.pull n).pulled = s.pulled + n := rfl

@[simp] theorem pull_env (n : Nat) (s : State) : (s.pull n).env = s.env := rfl

@[simp] theorem pull_inbox (n : Nat) (s : State) : (s.pull n).inbox = s.inbox := rfl

@[simp] theorem pull_direct (n : Nat) (s : State) : (s.pull n).direct = s.direct := rfl

@[simp] theorem pull_directResults (n : Nat) (s : State) : (s.pull n).directResults = s.directResults := rfl

/-! `respond`: the response (R85, R96) -/

@[simp] theorem respond_cfg (c : Code) (s : State) : (respond c s).cfg = s.cfg := rfl

@[simp] theorem respond_pw (c : Code) (s : State) : (respond c s).pw = s.pw := rfl

@[simp] theorem respond_ph (c : Code) (s : State) : (respond c s).ph = s.ph := rfl

@[simp] theorem respond_mir (c : Code) (s : State) : (respond c s).mir = s.mir := rfl

@[simp] theorem respond_rot (c : Code) (s : State) : (respond c s).rot = s.rot := rfl

@[simp] theorem respond_scr (c : Code) (s : State) : (respond c s).scr = s.scr := rfl

@[simp] theorem respond_phase (c : Code) (s : State) : (respond c s).phase = s.phase := rfl

@[simp] theorem respond_xfault (c : Code) (s : State) : (respond c s).xfault = s.xfault := rfl

@[simp] theorem respond_busy (c : Code) (s : State) : (respond c s).busy = false := rfl

@[simp] theorem respond_req (c : Code) (s : State) : (respond c s).req = s.req := rfl

@[simp] theorem respond_rstl (c : Code) (s : State) : (respond c s).rstl = s.rstl := rfl

@[simp] theorem respond_dcl (c : Code) (s : State) : (respond c s).dcl = s.dcl := rfl

@[simp] theorem respond_trace (c : Code) (s : State) : (respond c s).trace = s.trace := rfl

@[simp] theorem respond_responses (c : Code) (s : State) : (respond c s).responses = s.responses ++ [responseWord c s.xfault s.phase] := rfl

@[simp] theorem respond_stream (c : Code) (s : State) : (respond c s).stream = .none := rfl

@[simp] theorem respond_pulled (c : Code) (s : State) : (respond c s).pulled = s.pulled := rfl

@[simp] theorem respond_env (c : Code) (s : State) : (respond c s).env = s.env := rfl

@[simp] theorem respond_inbox (c : Code) (s : State) : (respond c s).inbox = s.inbox := rfl

@[simp] theorem respond_direct (c : Code) (s : State) : (respond c s).direct = s.direct := rfl

@[simp] theorem respond_directResults (c : Code) (s : State) : (respond c s).directResults = s.directResults := rfl

/-! `accept`: the latch and the ports (R96) -/

@[simp] theorem accept_cfg (d : Descriptor) (p : StreamPort) (r : List HostInput) (s : State) : (accept d p r s).cfg = s.cfg := rfl

@[simp] theorem accept_pw (d : Descriptor) (p : StreamPort) (r : List HostInput) (s : State) : (accept d p r s).pw = s.pw := rfl

@[simp] theorem accept_ph (d : Descriptor) (p : StreamPort) (r : List HostInput) (s : State) : (accept d p r s).ph = s.ph := rfl

@[simp] theorem accept_mir (d : Descriptor) (p : StreamPort) (r : List HostInput) (s : State) : (accept d p r s).mir = s.mir := rfl

@[simp] theorem accept_rot (d : Descriptor) (p : StreamPort) (r : List HostInput) (s : State) : (accept d p r s).rot = s.rot := rfl

@[simp] theorem accept_scr (d : Descriptor) (p : StreamPort) (r : List HostInput) (s : State) : (accept d p r s).scr = s.scr := rfl

@[simp] theorem accept_phase (d : Descriptor) (p : StreamPort) (r : List HostInput) (s : State) : (accept d p r s).phase = s.phase := rfl

@[simp] theorem accept_xfault (d : Descriptor) (p : StreamPort) (r : List HostInput) (s : State) : (accept d p r s).xfault = s.xfault := rfl

@[simp] theorem accept_busy (d : Descriptor) (p : StreamPort) (r : List HostInput) (s : State) : (accept d p r s).busy = true := rfl

@[simp] theorem accept_req (d : Descriptor) (p : StreamPort) (r : List HostInput) (s : State) : (accept d p r s).req = d := rfl

@[simp] theorem accept_rstl (d : Descriptor) (p : StreamPort) (r : List HostInput) (s : State) : (accept d p r s).rstl = s.rstl := rfl

@[simp] theorem accept_dcl (d : Descriptor) (p : StreamPort) (r : List HostInput) (s : State) : (accept d p r s).dcl = s.dcl := rfl

@[simp] theorem accept_trace (d : Descriptor) (p : StreamPort) (r : List HostInput) (s : State) : (accept d p r s).trace = s.trace := rfl

@[simp] theorem accept_responses (d : Descriptor) (p : StreamPort) (r : List HostInput) (s : State) : (accept d p r s).responses = s.responses := rfl

@[simp] theorem accept_stream (d : Descriptor) (p : StreamPort) (r : List HostInput) (s : State) : (accept d p r s).stream = p := rfl

@[simp] theorem accept_pulled (d : Descriptor) (p : StreamPort) (r : List HostInput) (s : State) : (accept d p r s).pulled = 0 := rfl

@[simp] theorem accept_env (d : Descriptor) (p : StreamPort) (r : List HostInput) (s : State) : (accept d p r s).env = s.env := rfl

@[simp] theorem accept_inbox (d : Descriptor) (p : StreamPort) (r : List HostInput) (s : State) : (accept d p r s).inbox = r := rfl

@[simp] theorem accept_direct (d : Descriptor) (p : StreamPort) (r : List HostInput) (s : State) : (accept d p r s).direct = s.direct := rfl

@[simp] theorem accept_directResults (d : Descriptor) (p : StreamPort) (r : List HostInput) (s : State) : (accept d p r s).directResults = s.directResults := rfl

/-! `blockReset`: the reset values (R37, R300) -/

@[simp] theorem blockReset_cfg (r : List HostInput) (s : State) : (blockReset r s).cfg = s.cfg := rfl

@[simp] theorem blockReset_pw (r : List HostInput) (s : State) : (blockReset r s).pw = s.cfg.pw := rfl

@[simp] theorem blockReset_ph (r : List HostInput) (s : State) : (blockReset r s).ph = s.cfg.ph := rfl

@[simp] theorem blockReset_mir (r : List HostInput) (s : State) : (blockReset r s).mir = s.cfg.mir := rfl

@[simp] theorem blockReset_rot (r : List HostInput) (s : State) : (blockReset r s).rot = s.cfg.rotInit := rfl

@[simp] theorem blockReset_scr (r : List HostInput) (s : State) : (blockReset r s).scr = { top := 0, area := s.cfg.ph, bottom := 0, offset := 0 } := rfl

@[simp] theorem blockReset_phase (r : List HostInput) (s : State) : (blockReset r s).phase = .uninit := rfl

@[simp] theorem blockReset_xfault (r : List HostInput) (s : State) : (blockReset r s).xfault = false := rfl

@[simp] theorem blockReset_busy (r : List HostInput) (s : State) : (blockReset r s).busy = false := rfl

@[simp] theorem blockReset_rstl (r : List HostInput) (s : State) : (blockReset r s).rstl = 1 := rfl

@[simp] theorem blockReset_trace (r : List HostInput) (s : State) : (blockReset r s).trace = [] := rfl

@[simp] theorem blockReset_responses (r : List HostInput) (s : State) : (blockReset r s).responses = [] := rfl

@[simp] theorem blockReset_stream (r : List HostInput) (s : State) : (blockReset r s).stream = .none := rfl

@[simp] theorem blockReset_pulled (r : List HostInput) (s : State) : (blockReset r s).pulled = 0 := rfl

@[simp] theorem blockReset_env (r : List HostInput) (s : State) : (blockReset r s).env = s.env := rfl

@[simp] theorem blockReset_inbox (r : List HostInput) (s : State) : (blockReset r s).inbox = r := rfl

@[simp] theorem blockReset_direct (r : List HostInput) (s : State) : (blockReset r s).direct = none := rfl

@[simp] theorem blockReset_directResults (r : List HostInput) (s : State) : (blockReset r s).directResults = [] := rfl

end Sys2Proof.Machine
end

