-- ==== Sys2Proof/Laws/Ops.lean ====
section
/-!
SUPPORT. One lemma for each shared operation, saying once what it can do: a burst, the sequencing of micro-operations, a
command with a payload, the composite store, the delays, and the end of a request. Each comes in two forms: what it does
when the environment lets it run to its end, and what it keeps whatever the environment does.
-/
namespace Sys2Proof.Machine

/-! ### Sequencing -/

@[simp] theorem andThen_ok (s : State) (k : State → Flow) : (Flow.ok s).andThen k = k s := rfl
@[simp] theorem andThen_raise (e : Code) (s : State) (k : State → Flow) :
    (Flow.raise e s).andThen k = .raise e s := rfl
@[simp] theorem andThen_stuck (s : State) (k : State → Flow) : (Flow.stuck s).andThen k = .stuck s := rfl
@[simp] theorem andThen_refuse (r : Refusal) (k : State → Flow) : (Flow.refuse r).andThen k = .refuse r := rfl
@[simp] theorem onRaise_ok (s : State) (k : Code → State → Flow) : (Flow.ok s).onRaise k = .ok s := rfl
@[simp] theorem onRaise_raise (e : Code) (s : State) (k : Code → State → Flow) :
    (Flow.raise e s).onRaise k = k e s := rfl
@[simp] theorem onRaise_stuck (s : State) (k : Code → State → Flow) : (Flow.stuck s).onRaise k = .stuck s := rfl
@[simp] theorem onRaise_refuse (r : Refusal) (k : Code → State → Flow) :
    (Flow.refuse r).onRaise k = .refuse r := rfl

/-- Sequencing runs the second part on every state the first can succeed in, and on no other. -/
theorem andThen_eq_ok {f : Flow} {k : State → Flow} {t : State} (h : f.andThen k = .ok t) :
    ∃ u, f = .ok u ∧ k u = .ok t := by
  cases f with
  | ok u => exact ⟨u, rfl, h⟩
  | raise e u => cases h
  | stuck u => cases h
  | refuse r => cases h

/-- A property of every state a flow ends in, split by how it ends. -/
def Flow.Ends (ok : State → Prop) (raise : Code → State → Prop) (stuck : State → Prop) : Flow → Prop
  | .ok s => ok s
  | .raise e s => raise e s
  | .stuck s => stuck s
  | .refuse _ => True

/-- Sequencing, for properties: what the second part needs is what the first part's success gives. -/
theorem Flow.Ends.andThen {ok ok' : State → Prop} {raise : Code → State → Prop} {stuck : State → Prop} {f : Flow}
    {k : State → Flow} (h : f.Ends ok raise stuck) (hk : ∀ s, ok s → (k s).Ends ok' raise stuck) :
    (f.andThen k).Ends ok' raise stuck := by
  cases f with
  | ok s => exact hk s h
  | raise e s => exact h
  | stuck s => exact h
  | refuse r => trivial

/-- Weakening of each of the three properties. -/
theorem Flow.Ends.mono {ok ok' : State → Prop} {raise raise' : Code → State → Prop} {stuck stuck' : State → Prop}
    {f : Flow} (h : f.Ends ok raise stuck) (h1 : ∀ s, ok s → ok' s) (h2 : ∀ e s, raise e s → raise' e s)
    (h3 : ∀ s, stuck s → stuck' s) : f.Ends ok' raise' stuck' := by
  cases f with
  | ok s => exact h1 s h
  | raise e s => exact h2 e s h
  | stuck s => exact h3 s h
  | refuse r => trivial

/-! ### The environment -/

theorem clear_succ {n : Nat} {v : Env} (h : v.clear (n + 1) = true) :
    v.verdict = .ok ∧ v.afterBurst.clear n = true := by
  unfold Env.clear at *
  unfold Env.verdict Env.afterBurst
  cases hb : v.bursts with
  | nil => simp
  | cons b bs => simpa [hb] using h

theorem clear_verdict {n : Nat} {v : Env} (h : v.clear (n + 1) = true) : v.verdict = .ok := (clear_succ h).1

theorem clear_zero (v : Env) : v.clear 0 = true := by simp [Env.clear]

theorem afterBurst_after (n : Nat) (v : Env) : v.afterBurst.after n = v.after (n + 1) := by
  simp [Env.after, Env.afterBurst]

theorem after_after (m n : Nat) (v : Env) : (v.after m).after n = v.after (m + n) := by
  simp [Env.after]

theorem after_one (v : Env) : v.afterBurst = v.after 1 := by
  simp [Env.after, Env.afterBurst]

theorem clear_add {m n : Nat} {v : Env} : v.clear (m + n) = true ↔ v.clear m = true ∧ (v.after m).clear n = true := by
  simp only [Env.clear, Env.after, List.take_add, List.all_append, Bool.and_eq_true]

theorem clear_mono {m n : Nat} {v : Env} (h : v.clear n = true) (hm : m ≤ n) : v.clear m = true := by
  obtain ⟨k, rfl⟩ := Nat.exists_eq_add_of_le hm
  exact (clear_add.mp h).1

/-! ### Bursts -/

/-- The state a burst that completes leaves (R110). -/
def State.sent (level : Level) (bytes : List Byte) (s : State) : State :=
  { s with trace := s.trace ++ [.burst level bytes .complete], dcl := level.line s.cfg, env := s.env.afterBurst }

/-- The state a burst cut short after `n` bytes leaves, before any report is acted on (R110, R114). -/
def State.cut (level : Level) (bytes : List Byte) (n : Nat) (ending : Ending) (s : State) : State :=
  { s with trace := s.trace ++ [.burst level (bytes.take n) ending], dcl := level.line s.cfg, env := s.env.afterBurst }

/-- Everything a burst can do (R110). -/
theorem burst_cases (level : Level) (bytes : List Byte) (s : State) :
    (s.env.verdict = .ok ∧ burst level bytes s = .ok (s.sent level bytes)) ∨
    (∃ n ahead, s.env.verdict = .fault n ahead ∧
      burst level bytes s = .raise .transportError { s.cut level bytes n .faulted with xfault := true }) ∨
    (∃ n ahead, s.env.verdict = .hang n ahead ∧ burst level bytes s = .stuck (s.cut level bytes n .stalled)) := by
  unfold burst
  cases h : s.env.verdict with
  | ok => exact .inl ⟨rfl, rfl⟩
  | fault n a => exact .inr (.inl ⟨n, a, rfl, rfl⟩)
  | hang n a => exact .inr (.inr ⟨n, a, rfl, rfl⟩)

theorem burst_ok {level : Level} {bytes : List Byte} {s : State} (h : s.env.verdict = .ok) :
    burst level bytes s = .ok (s.sent level bytes) := by
  simp only [burst, h]; rfl

theorem burst_fault {level : Level} {bytes : List Byte} {s : State} {n ahead : Nat}
    (h : s.env.verdict = .fault n ahead) :
    burst level bytes s = .raise .transportError { s.cut level bytes n .faulted with xfault := true } := by
  simp only [burst, h]; rfl

theorem burst_hang {level : Level} {bytes : List Byte} {s : State} {n ahead : Nat}
    (h : s.env.verdict = .hang n ahead) :
    burst level bytes s = .stuck (s.cut level bytes n .stalled) := by
  simp only [burst, h]; rfl

/-- A command with a payload under two successes (R87). -/
theorem commandWith_clear {opcode : Byte} {payload : List Byte} {s : State} (h : s.env.clear 2 = true) :
    commandWith opcode payload s =
      .ok { s with trace := s.trace ++ [cmd opcode, dat payload], dcl := s.cfg.dcData, env := s.env.after 2 } := by
  obtain ⟨h1, h⟩ := clear_succ h
  have h2 : (s.sent .command [opcode]).env.verdict = .ok := clear_verdict h
  simp [commandWith, sendCommand, sendData, burst_ok h1, burst_ok h2]
  simp [State.sent, cmd, dat, Level.line, after_one, after_after]

/-- A command with a payload whose opcode byte faults (R114). -/
theorem commandWith_fault {opcode : Byte} {payload : List Byte} {s : State} {n ahead : Nat}
    (h : s.env.verdict = .fault n ahead) :
    commandWith opcode payload s = .raise .transportError { s.cut .command [opcode] n .faulted with xfault := true } := by
  simp only [commandWith, sendCommand, burst_fault h, andThen_raise]

/-- A command with a payload whose payload faults (R114). -/
theorem commandWith_payload_fault {opcode : Byte} {payload : List Byte} {s : State} {n ahead : Nat}
    (h : s.env.verdict = .ok) (h' : s.env.afterBurst.verdict = .fault n ahead) :
    commandWith opcode payload s = .raise .transportError { s with
      trace := s.trace ++ [cmd opcode, .burst .data (payload.take n) .faulted], dcl := s.cfg.dcData, xfault := true,
      env := s.env.after 2 } := by
  have h2 : (s.sent .command [opcode]).env.verdict = .fault n ahead := h'
  simp only [commandWith, sendCommand, sendData, burst_ok h, andThen_ok, burst_fault h2]
  simp [State.sent, State.cut, cmd, Level.line, after_one, after_after]

/-- A command without payload under success (R87). -/
theorem sendCommand_clear {opcode : Byte} {s : State} (h : s.env.clear 1 = true) :
    sendCommand opcode s =
      .ok { s with trace := s.trace ++ [cmd opcode], dcl := s.cfg.dcCmd, env := s.env.after 1 } := by
  simp [sendCommand, burst_ok (clear_verdict h), State.sent, cmd, Level.line, after_one]

/-- `set_address_window` under four successes (R135). -/
theorem setAddressWindow_clear {win : AddressWindow} {s : State} (h : s.env.clear 4 = true) :
    setAddressWindow win s =
      .ok { s with
        trace := s.trace ++ [cmd s.cfg.opcCaset, dat (msbFirst win.xStart ++ msbFirst win.xEnd),
          cmd s.cfg.opcRaset, dat (msbFirst win.yStart ++ msbFirst win.yEnd)],
        dcl := s.cfg.dcData, env := s.env.after 4 } := by
  obtain ⟨h1, h2⟩ := (clear_add (m := 2) (n := 2)).mp h
  rw [setAddressWindow, setWindowColumns, commandWith_clear h1, andThen_ok, setWindowRows, commandWith_clear h2]
  simp [after_after]

/-- `MemWrite` under six successes (R140). -/
theorem memWrite_clear {win : AddressWindow} {colors : List Color} {s : State} (h : s.env.clear 6 = true) :
    memWrite win colors s =
      .ok { s with trace := s.trace ++ storeEvents s.cfg win (colorBytes colors), dcl := s.cfg.dcData,
                   env := s.env.after 6 } := by
  obtain ⟨h1, h2⟩ := (clear_add (m := 4) (n := 2)).mp h
  have := commandWith_clear (opcode := s.cfg.opcRamwr) (payload := colorBytes colors)
    (s := { s with
        trace := s.trace ++ [cmd s.cfg.opcCaset, dat (msbFirst win.xStart ++ msbFirst win.xEnd),
          cmd s.cfg.opcRaset, dat (msbFirst win.yStart ++ msbFirst win.yEnd)],
        dcl := s.cfg.dcData, env := s.env.after 4 }) h2
  rw [memWrite, setAddressWindow_clear h1, andThen_ok]
  refine Eq.trans this ?_
  simp [after_after, storeEvents]

/-! ### What the transport operations keep -/

/-- The states a transport operation can leave from `s`: only the trace (which grows), the D/C line, `XFAULT` and the
environment differ. -/
def Emits (s t : State) : Prop :=
  ∃ w d x v, t = { s with trace := s.trace ++ w, dcl := d, xfault := x, env := v }

theorem Emits.refl (s : State) : Emits s s := ⟨[], s.dcl, s.xfault, s.env, by simp⟩

theorem Emits.trans {s t u : State} (h : Emits s t) (h' : Emits t u) : Emits s u := by
  obtain ⟨w, d, x, v, rfl⟩ := h
  obtain ⟨w', d', x', v', rfl⟩ := h'
  exact ⟨w ++ w', d', x', v', by simp⟩

/-- A transport operation: however it ends, only what `Emits` names has changed, and an error is `TransportError`. -/
def Flow.Transports (s : State) (f : Flow) : Prop :=
  f.Ends (Emits s) (fun e t => e = .transportError ∧ Emits s t ∧ t.xfault = true) (Emits s)

theorem Flow.Transports.andThen {s : State} {f : Flow} {k : State → Flow} (h : f.Transports s)
    (hk : ∀ t, Emits s t → (k t).Transports t) : (f.andThen k).Transports s := by
  refine Flow.Ends.andThen h fun t ht => ?_
  exact (hk t ht).mono (fun _ h => ht.trans h) (fun _ _ h => ⟨h.1, ht.trans h.2.1, h.2.2⟩) (fun _ h => ht.trans h)

theorem burst_transports (level : Level) (bytes : List Byte) (s : State) : (burst level bytes s).Transports s := by
  obtain ⟨-, h⟩ | ⟨n, a, -, h⟩ | ⟨n, a, -, h⟩ := burst_cases level bytes s <;> rw [h]
  · exact ⟨_, _, s.xfault, _, rfl⟩
  · exact ⟨rfl, ⟨_, _, true, _, rfl⟩, rfl⟩
  · exact ⟨_, _, s.xfault, _, rfl⟩

theorem commandWith_transports (opcode : Byte) (payload : List Byte) (s : State) :
    (commandWith opcode payload s).Transports s :=
  (burst_transports _ _ _).andThen fun _ _ => burst_transports _ _ _

theorem setAddressWindow_transports (win : AddressWindow) (s : State) : (setAddressWindow win s).Transports s :=
  (commandWith_transports _ _ _).andThen fun _ _ => commandWith_transports _ _ _

theorem memWrite_transports (win : AddressWindow) (colors : List Color) (s : State) :
    (memWrite win colors s).Transports s :=
  (setAddressWindow_transports _ _).andThen fun _ _ => commandWith_transports _ _ _

theorem setMemoryAccessControl_transports (rot : BitVec 2) (mir : Bool) (s : State) :
    (setMemoryAccessControl rot mir s).Transports s := commandWith_transports _ _ _

/-! ### Reset line and delays -/

/-- The reset pulse when the delay provider returns (R131). -/
theorem resetSequence_returns {s : State} (h : s.env.returns 2 = true) :
    resetSequence s =
      .ok { s with
        rstl := 1,
        trace := s.trace ++ [.rst 0, .dly s.cfg.tRstLowMs, .rst 1, .dly s.cfg.tRstSettleMs],
        env := { s.env with delays := s.env.delays.drop 2 } } := by
  unfold Env.returns at h
  rcases hd : s.env.delays with _ | ⟨a, _ | ⟨b, ds⟩⟩ <;>
    simp_all [resetSequence, setRST, delay, State.emit, Env.delayReturns]

/-- The sample of `init_ack` when the controller acknowledges (R241). -/
theorem sampleInitAck_true {s : State} (h : s.env.initAck = true) :
    sampleInitAck s = .ok { s with env := { s.env with acks := s.env.acks.drop 1 } } := by
  simp only [sampleInitAck, h, if_true, List.drop_one]

/-- The sample of `init_ack` when it does not (R241). -/
theorem sampleInitAck_false {s : State} (h : s.env.initAck = false) :
    sampleInitAck s = .raise .initError { s with env := { s.env with acks := s.env.acks.drop 1 } } := by
  simp only [sampleInitAck, h, List.drop_one]
  rfl

/-! ### The end of a request -/

@[simp] theorem conclude_ok (s : State) : conclude (.ok s) = .next (respond .ok s) := rfl
@[simp] theorem conclude_raise (e : Code) (s : State) : conclude (.raise e s) = .next (respond e s) := rfl
@[simp] theorem conclude_stuck (s : State) : conclude (.stuck s) = .next { s with busy := true } := rfl
@[simp] theorem conclude_refuse (r : Refusal) : conclude (.refuse r) = .refused r := rfl
@[simp] theorem concludeDirect_ok (s : State) :
    concludeDirect (.ok s) = .next { s with directResults := s.directResults ++ [.ok] } := rfl
@[simp] theorem concludeDirect_raise (e : Code) (s : State) :
    concludeDirect (.raise e s) = .next { s with directResults := s.directResults ++ [e] } := rfl
@[simp] theorem concludeDirect_stuck (s : State) : concludeDirect (.stuck s) = .next { s with busy := true } := rfl
@[simp] theorem concludeDirect_refuse (r : Refusal) : concludeDirect (.refuse r) = .refused r := rfl

/-- A request that executes (R96). -/
theorem runRequest_allowed {allowed : Phase → Bool} {operation : State → Flow} {s : State}
    (hc : cfgValid s.cfg = true) (hp : allowed s.phase = true) :
    runRequest allowed operation s = conclude (operation s) := by
  simp [runRequest, hc, hp]

/-- Everything a request can answer next: `NotReady` in a phase that does not allow it, a response, or a wait without
one (R96, R316). -/
theorem runRequest_next {allowed : Phase → Bool} {operation : State → Flow} {s t : State}
    (h : runRequest allowed operation s = .next t) :
    cfgValid s.cfg = true ∧
    ((allowed s.phase = false ∧ t = respond .notReady s) ∨
     (allowed s.phase = true ∧
      ((∃ u, operation s = .ok u ∧ t = respond .ok u) ∨ (∃ e u, operation s = .raise e u ∧ t = respond e u) ∨
       (∃ u, operation s = .stuck u ∧ t = { u with busy := true })))) := by
  unfold runRequest at h
  split at h
  next hc =>
    refine ⟨hc, ?_⟩
    split at h
    next hp =>
      refine .inr ⟨hp, ?_⟩
      cases ho : operation s with
      | ok u => rw [ho] at h; exact .inl ⟨u, rfl, by cases h; rfl⟩
      | raise e u => rw [ho] at h; exact .inr (.inl ⟨e, u, rfl, by cases h; rfl⟩)
      | stuck u => rw [ho] at h; exact .inr (.inr ⟨u, rfl, by cases h; rfl⟩)
      | refuse r => rw [ho] at h; cases h
    next hp => exact .inl ⟨by simpa using hp, by cases h; rfl⟩
  next hc => cases h

/-- Everything a wire command run by itself can answer next. -/
theorem runDirect_next {operation : State → Flow} {s t : State} (h : runDirect operation s = .next t) :
    cfgValid s.cfg = true ∧
    ((∃ u, operation s = .ok u ∧ t = { u with directResults := u.directResults ++ [.ok] }) ∨
     (∃ e u, operation s = .raise e u ∧ t = { u with directResults := u.directResults ++ [e] }) ∨
     (∃ u, operation s = .stuck u ∧ t = { u with busy := true })) := by
  unfold runDirect at h
  split at h
  next hc =>
    refine ⟨hc, ?_⟩
    cases ho : operation s with
    | ok u => rw [ho] at h; exact .inl ⟨u, rfl, by cases h; rfl⟩
    | raise e u => rw [ho] at h; exact .inr (.inl ⟨e, u, rfl, by cases h; rfl⟩)
    | stuck u => rw [ho] at h; exact .inr (.inr ⟨u, rfl, by cases h; rfl⟩)
    | refuse r => rw [ho] at h; cases h
  next hc => cases h

end Sys2Proof.Machine
end

