-- ==== Sys2Proof/Laws/Bursts.lean ====
section
/-!
SUPPORT. Every operation that sends is a list of bursts sent one after another until one does not complete
(40_transport.md rule R114); what such a list can do is said once here, and each micro-operation is shown to be one.
-/
namespace Sys2Proof.Machine

/-- Bursts sent one after another; the first that does not complete ends them. -/
def runBursts : List (Level × List Byte) → State → Flow
  | [], s => .ok s
  | b :: bs, s => (burst b.1 b.2 s).andThen (runBursts bs)

/-- The event of a burst that completes. -/
def completed (b : Level × List Byte) : Event := .burst b.1 b.2 .complete

/-- The states left by a list of bursts that stopped inside one of them, every burst before it complete. -/
def StoppedIn (bs : List (Level × List Byte)) (ending : Ending) (s t : State) : Prop :=
  ∃ before b after n d x v, bs = before ++ b :: after ∧
    t = { s with
      trace := s.trace ++ before.map completed ++ [.burst b.1 (b.2.take n) ending], dcl := d, xfault := x, env := v }

/-- Everything a list of bursts can do. -/
theorem runBursts_ends (bs : List (Level × List Byte)) (s : State) :
    (runBursts bs s).Ends
      (fun t => ∃ d v, t = { s with trace := s.trace ++ bs.map completed, dcl := d, env := v })
      (fun e t => e = .transportError ∧ t.xfault = true ∧ StoppedIn bs .faulted s t)
      (fun t => t.xfault = s.xfault ∧ StoppedIn bs .stalled s t) := by
  induction bs generalizing s with
  | nil => exact ⟨s.dcl, s.env, by simp⟩
  | cons b bs ih =>
    obtain ⟨-, h⟩ | ⟨n, a, -, h⟩ | ⟨n, a, -, h⟩ := burst_cases b.1 b.2 s
    · rw [runBursts, h]
      refine (ih (s.sent b.1 b.2)).mono ?_ ?_ ?_
      · rintro t ⟨d, v, rfl⟩
        exact ⟨d, v, by simp [State.sent, completed]⟩
      · rintro e t ⟨he, hx, before, c, after, n, d, x, v, rfl, rfl⟩
        exact ⟨he, hx, b :: before, c, after, n, d, x, v, rfl, by simp [State.sent, completed]⟩
      · rintro t ⟨hx, before, c, after, n, d, x, v, rfl, rfl⟩
        exact ⟨hx, b :: before, c, after, n, d, x, v, rfl, by simp [State.sent, completed]⟩
    · rw [runBursts, h]
      exact ⟨rfl, rfl, [], b, bs, n, b.1.line s.cfg, true, s.env.afterBurst, rfl, by simp [State.cut]⟩
    · rw [runBursts, h]
      exact ⟨rfl, [], b, bs, n, b.1.line s.cfg, s.xfault, s.env.afterBurst, rfl, by simp [State.cut]⟩

/-- A list of bursts that all complete. -/
theorem runBursts_clear {bs : List (Level × List Byte)} {s : State} (h : s.env.clear bs.length = true) :
    runBursts bs s = .ok { s with
      trace := s.trace ++ bs.map completed, dcl := (bs.getLast?.map fun b => b.1.line s.cfg).getD s.dcl,
      env := s.env.after bs.length } := by
  induction bs generalizing s with
  | nil => simp [runBursts, Env.after]
  | cons b bs ih =>
    obtain ⟨hv, hc⟩ := clear_succ h
    rw [runBursts, burst_ok hv, andThen_ok, ih (s := s.sent b.1 b.2) hc]
    cases bs with
    | nil => simp [State.sent, completed, after_one, after_after]
    | cons b' bs =>
      cases hl : (b' :: bs).getLast? with
      | none => simp at hl
      | some l => simp [State.sent, completed, after_one, after_after, List.getLast?_cons, hl, Nat.add_comm]

/-- A list of bursts whose first `k` complete is what is left of it, run on the state they leave. -/
theorem runBursts_drop {bs : List (Level × List Byte)} {b : Level × List Byte} {k : Nat} {s : State}
    (hk : bs[k]? = some b) (hc : s.env.clear k = true) :
    ∃ d, runBursts bs s = (burst b.1 b.2 { s with
      trace := s.trace ++ (bs.take k).map completed, dcl := d, env := s.env.after k }).andThen
        (runBursts (bs.drop (k + 1))) := by
  induction bs generalizing s k with
  | nil => simp at hk
  | cons c bs ih =>
    cases k with
    | zero =>
      obtain rfl : c = b := by simpa using hk
      exact ⟨s.dcl, by simp [runBursts, Env.after]⟩
    | succ k =>
      obtain ⟨h0, hc⟩ := clear_succ hc
      obtain ⟨d, h⟩ := ih (s := s.sent c.1 c.2) (by simpa using hk) hc
      refine ⟨d, ?_⟩
      rw [runBursts, burst_ok h0, andThen_ok, h]
      simp [State.sent, completed, after_one, after_after, Nat.add_comm 1 k]

/-- A list of bursts in which the burst `k` is the first that does not complete, and faults (R114). -/
theorem runBursts_fault {bs : List (Level × List Byte)} {b : Level × List Byte} {k n ahead : Nat} {s : State}
    (hk : bs[k]? = some b) (hc : s.env.clear k = true) (hv : (s.env.after k).verdict = .fault n ahead) :
    runBursts bs s = .raise .transportError { s with
      trace := s.trace ++ (bs.take k).map completed ++ [.burst b.1 (b.2.take n) .faulted], dcl := b.1.line s.cfg,
      xfault := true, env := s.env.after (k + 1) } := by
  obtain ⟨d, h⟩ := runBursts_drop hk hc
  rw [h, burst_fault (by exact hv)]
  simp [State.cut, after_one, after_after]

/-- A list of bursts in which the burst `k` is the first that does not complete, and is never reported (R115). -/
theorem runBursts_hang {bs : List (Level × List Byte)} {b : Level × List Byte} {k n ahead : Nat} {s : State}
    (hk : bs[k]? = some b) (hc : s.env.clear k = true) (hv : (s.env.after k).verdict = .hang n ahead) :
    runBursts bs s = .stuck { s with
      trace := s.trace ++ (bs.take k).map completed ++ [.burst b.1 (b.2.take n) .stalled], dcl := b.1.line s.cfg,
      env := s.env.after (k + 1) } := by
  obtain ⟨d, h⟩ := runBursts_drop hk hc
  rw [h, burst_hang (by exact hv)]
  simp [State.cut, after_one, after_after]

/-- A property of what follows is only needed on the states the first part succeeds in. -/
theorem andThen_congr {f : Flow} {k k' : State → Flow} (h : ∀ t, f = .ok t → k t = k' t) :
    f.andThen k = f.andThen k' := by
  cases f with
  | ok t => exact h t rfl
  | raise e t => rfl
  | stuck t => rfl
  | refuse r => rfl

theorem andThen_assoc (f : Flow) (k k' : State → Flow) :
    (f.andThen k).andThen k' = f.andThen fun t => (k t).andThen k' := by
  cases f <;> rfl

theorem runBursts_append (bs bs' : List (Level × List Byte)) (s : State) :
    runBursts (bs ++ bs') s = (runBursts bs s).andThen (runBursts bs') := by
  induction bs generalizing s with
  | nil => rfl
  | cons b bs ih =>
    rw [List.cons_append, runBursts, runBursts, andThen_assoc]
    exact andThen_congr fun t _ => ih t

/-- A list of bursts that all complete leaves the configuration as it was. -/
theorem runBursts_cfg {bs : List (Level × List Byte)} {s t : State} (h : runBursts bs s = .ok t) : t.cfg = s.cfg := by
  have := runBursts_ends bs s
  rw [h] at this
  obtain ⟨d, v, rfl⟩ := this
  rfl

theorem andThen_okay (f : Flow) : (f.andThen fun t => .ok t) = f := by cases f <;> rfl

theorem sendCommand_eq (opcode : Byte) (s : State) : sendCommand opcode s = runBursts [(.command, [opcode])] s := by
  simp [runBursts, sendCommand, andThen_okay]

theorem commandWith_eq (opcode : Byte) (payload : List Byte) (s : State) :
    commandWith opcode payload s = runBursts [(.command, [opcode]), (.data, payload)] s := by
  simp only [runBursts, commandWith, sendCommand, sendData]
  exact andThen_congr fun t _ => (andThen_okay _).symm

/-- The bursts of a window and its write (R135, R136, R140). -/
def storeBursts (c : Cfg) (win : AddressWindow) (bytes : List Byte) : List (Level × List Byte) :=
  [(.command, [c.opcCaset]), (.data, msbFirst win.xStart ++ msbFirst win.xEnd),
   (.command, [c.opcRaset]), (.data, msbFirst win.yStart ++ msbFirst win.yEnd),
   (.command, [c.opcRamwr]), (.data, bytes)]

theorem setAddressWindow_eq (win : AddressWindow) (s : State) :
    setAddressWindow win s = runBursts
      [(.command, [s.cfg.opcCaset]), (.data, msbFirst win.xStart ++ msbFirst win.xEnd),
       (.command, [s.cfg.opcRaset]), (.data, msbFirst win.yStart ++ msbFirst win.yEnd)] s := by
  rw [setAddressWindow, setWindowColumns, commandWith_eq]
  refine Eq.trans (andThen_congr fun t ht => ?_) (runBursts_append [_, _] [_, _] s).symm
  rw [setWindowRows, commandWith_eq, runBursts_cfg ht]

theorem memWrite_eq (win : AddressWindow) (colors : List Color) (s : State) :
    memWrite win colors s = runBursts (storeBursts s.cfg win (colorBytes colors)) s := by
  rw [memWrite, setAddressWindow_eq]
  refine Eq.trans (andThen_congr fun t ht => ?_) (runBursts_append [_, _, _, _] [_, _] s).symm
  rw [← runBursts_cfg ht]
  exact commandWith_eq _ _ _

end Sys2Proof.Machine
end

