-- ==== Sys2Proof/Laws/Memory.lean ====
section
/-!
SUPPORT. The pixel-space memory: a read after a write at the same address gives the colour written, a write leaves every
other address alone, and every operation keeps the canonical form; so the pixel space of every trace is canonical.
-/
namespace Sys2Proof.Machine

theorem Memory.wf_tail {p : Nat × Color} {m : Memory} (h : Memory.wf (p :: m) = true) : Memory.wf m = true := by
  cases m with
  | nil => rfl
  | cons q m => simp only [Memory.wf, Bool.and_eq_true] at h; exact h.2

/-- A list whose addresses all lie above `p`'s goes on from `p` in canonical form. -/
theorem Memory.wf_cons {p : Nat × Color} {m : Memory} (h : Memory.wf m = true) (hp : ∀ q ∈ m, p.1 < q.1) :
    Memory.wf (p :: m) = true := by
  cases m with
  | nil => rfl
  | cons q m => simp [Memory.wf, hp q (by simp), h]

/-- In canonical form the first address is the least. -/
theorem Memory.wf_lt {p : Nat × Color} {m : Memory} (h : Memory.wf (p :: m) = true) : ∀ q ∈ m, p.1 < q.1 := by
  induction m generalizing p with
  | nil => simp
  | cons r m ih =>
    have hr : p.1 < r.1 := by simp only [Memory.wf, Bool.and_eq_true, decide_eq_true_eq] at h; exact h.1
    intro q hq
    rcases List.mem_cons.mp hq with rfl | hq
    · exact hr
    · exact hr.trans (ih (Memory.wf_tail h) q hq)

theorem Memory.mem_write {m : Memory} {a : Nat} {col : Color} {q : Nat × Color} (h : q ∈ Memory.write m a col) :
    q = (a, col) ∨ q ∈ m := by
  induction m with
  | nil => simpa [Memory.write] using h
  | cons p m ih =>
    simp only [Memory.write] at h
    split at h
    · simpa using h
    · split at h
      · rcases List.mem_cons.mp h with h | h
        · exact .inl h
        · exact .inr (List.mem_cons_of_mem _ h)
      · rcases List.mem_cons.mp h with rfl | h
        · exact .inr (by simp)
        · exact (ih h).imp id (List.mem_cons_of_mem _)

theorem Memory.mem_forget {m : Memory} {a : Nat} {q : Nat × Color} (h : q ∈ Memory.forget m a) : q ∈ m := by
  induction m with
  | nil => simp [Memory.forget] at h
  | cons p m ih =>
    simp only [Memory.forget] at h
    split at h
    · exact List.mem_cons_of_mem _ h
    · rcases List.mem_cons.mp h with rfl | h
      · simp
      · exact List.mem_cons_of_mem _ (ih h)

theorem Memory.wf_write {m : Memory} (h : Memory.wf m = true) (a : Nat) (col : Color) :
    Memory.wf (Memory.write m a col) = true := by
  induction m with
  | nil => rfl
  | cons p m ih =>
    simp only [Memory.write]
    split
    next ha =>
      refine Memory.wf_cons h fun q hq => ?_
      rcases List.mem_cons.mp hq with rfl | hq
      · exact ha
      · exact ha.trans (Memory.wf_lt h q hq)
    next ha =>
      split
      next he => exact Memory.wf_cons (Memory.wf_tail h) fun q hq => he ▸ Memory.wf_lt h q hq
      next he =>
        refine Memory.wf_cons (ih (Memory.wf_tail h)) fun q hq => ?_
        rcases Memory.mem_write hq with rfl | hq
        · exact lt_of_le_of_ne (not_lt.mp ha) (Ne.symm he)
        · exact Memory.wf_lt h q hq

theorem Memory.wf_forget {m : Memory} (h : Memory.wf m = true) (a : Nat) : Memory.wf (Memory.forget m a) = true := by
  induction m with
  | nil => rfl
  | cons p m ih =>
    simp only [Memory.forget]
    split
    · exact Memory.wf_tail h
    · exact Memory.wf_cons (ih (Memory.wf_tail h)) fun q hq => Memory.wf_lt h q (Memory.mem_forget hq)

theorem Memory.read_write_same (m : Memory) (a : Nat) (col : Color) :
    Memory.read (Memory.write m a col) a = some col := by
  induction m with
  | nil => simp [Memory.write, Memory.read]
  | cons p m ih =>
    simp only [Memory.write]
    split
    · simp [Memory.read]
    · split
      · simp [Memory.read]
      next he => simp [Memory.read, Ne.symm he, ih]

theorem Memory.read_write_other (m : Memory) {a b : Nat} (col : Color) (h : b ≠ a) :
    Memory.read (Memory.write m a col) b = Memory.read m b := by
  induction m with
  | nil => simp [Memory.write, Memory.read, Ne.symm h]
  | cons p m ih =>
    simp only [Memory.write]
    split
    · simp [Memory.read, Ne.symm h]
    · split
      next he =>
        have hp : ¬ p.1 = b := fun hb => h (hb ▸ he).symm
        simp [Memory.read, Ne.symm h, hp]
      next he => simp [Memory.read, ih]

theorem Memory.read_forget_other (m : Memory) {a b : Nat} (h : b ≠ a) :
    Memory.read (Memory.forget m a) b = Memory.read m b := by
  induction m with
  | nil => rfl
  | cons p m ih =>
    simp only [Memory.forget]
    split
    next he =>
      have hp : ¬ p.1 = b := fun hb => h (hb ▸ he)
      simp [Memory.read, hp]
    next he => simp [Memory.read, ih]

theorem Memory.wf_foldl_write {m : Memory} (h : Memory.wf m = true) (as : List Nat) (col : Color) :
    Memory.wf (as.foldl (fun m a => Memory.write m a col) m) = true := by
  induction as generalizing m with
  | nil => exact h
  | cons a as ih => exact ih (Memory.wf_write h a col)

theorem Memory.wf_foldl_forget {m : Memory} (h : Memory.wf m = true) (as : List Nat) :
    Memory.wf (as.foldl Memory.forget m) = true := by
  induction as generalizing m with
  | nil => exact h
  | cons a as ih => exact ih (Memory.wf_forget h a)

/-- Writing one colour to a list of addresses: those hold it, every other address is as before. -/
theorem Memory.read_foldl_write (m : Memory) (as : List Nat) (col : Color) (b : Nat) :
    Memory.read (as.foldl (fun m a => Memory.write m a col) m) b = if b ∈ as then some col else Memory.read m b := by
  induction as generalizing m with
  | nil => simp
  | cons a as ih =>
    simp only [List.foldl_cons, ih, List.mem_cons]
    by_cases hb : b = a
    · subst hb; simp [Memory.read_write_same]
    · simp [hb, Memory.read_write_other m col hb]

theorem Memory.read_foldl_forget (m : Memory) (as : List Nat) {b : Nat} (h : b ∉ as) :
    Memory.read (as.foldl Memory.forget m) b = Memory.read m b := by
  induction as generalizing m with
  | nil => rfl
  | cons a as ih =>
    simp only [List.mem_cons, not_or] at h
    rw [List.foldl_cons, ih _ h.2, Memory.read_forget_other m h.1]

theorem wf_storeWindow (win : AddressWindow) (colors : List Color) {m : Memory} (h : Memory.wf m = true) :
    Memory.wf (storeWindow win colors m) = true := by
  unfold storeWindow
  split
  · rfl
  · split
    · rfl
    · split
      · split
        · exact Memory.wf_foldl_write h _ _
        · exact Memory.wf_foldl_forget h _
      · rfl

theorem wf_payload (c : Cfg) (opcode : Byte) (bytes : List Byte) {o : Observer} (h : Memory.wf o.memory = true) :
    Memory.wf (o.payload c opcode bytes).memory = true := by
  unfold Observer.payload
  split
  · split
    · exact h
    · rfl
  · split
    · split
      · exact h
      · rfl
    · split
      · split
        · exact wf_storeWindow _ _ h
        · rfl
      · exact h

theorem wf_event (c : Cfg) {o : Observer} (h : Memory.wf o.memory = true) (e : Event) :
    Memory.wf (o.event c e).memory = true := by
  unfold Observer.event
  split
  · rfl
  · exact h
  · exact h
  · split
    · exact wf_payload c _ _ h
    · rfl
  · rfl

/-- The pixel space of every trace is in canonical form. -/
theorem wf_pixelSpace (c : Cfg) (w : List Event) : Memory.wf (pixelSpace c w) = true := by
  have fold : ∀ o : Observer, Memory.wf o.memory = true → Memory.wf (w.foldl (Observer.event c) o).memory = true := by
    induction w with
    | nil => exact fun _ h => h
    | cons e w ih => exact fun o h => ih _ (wf_event c h e)
  exact fold _ rfl

end Sys2Proof.Machine
end

