-- ==== Sys2Proof/Laws/PerInstr.lean ====
section
/-!
SUPPORT. Statements made for every instruction, one lemma per constructor (LAWS.json): `EncodingKind`, that an instruction
is encoded in exactly one way, a request in a descriptor and a wire command in bytes (30_encoding.md rules R80, R82, R88).
-/
namespace Sys2Proof.Laws.EncodingKind

/-- A request has a descriptor and no wire bytes, a wire command has wire bytes and no descriptor. -/
def Statement (i : Instr) : Prop :=
  (encodeRequest i).isSome = !i.isWire ∧ ∀ c, (encodeWire c i).isSome = i.isWire

theorem init : Statement .init := ⟨rfl, fun _ => rfl⟩
theorem setOrientation (r : BitVec 2) : Statement (.setOrientation r) := ⟨rfl, fun _ => rfl⟩
theorem clear (col : Color) : Statement (.clear col) := ⟨rfl, fun _ => rfl⟩
theorem drawPixels : Statement .drawPixels := ⟨rfl, fun _ => rfl⟩
theorem fillRect (xs xe ys ye : U16) (col : Color) : Statement (.fillRect xs xe ys ye col) := ⟨rfl, fun _ => rfl⟩
theorem drawImage (x y w h : U16) : Statement (.drawImage x y w h) := ⟨rfl, fun _ => rfl⟩
theorem configureScroll (t a b : U16) : Statement (.configureScroll t a b) := ⟨rfl, fun _ => rfl⟩
theorem setOffset (o : U16) : Statement (.setOffset o) := ⟨rfl, fun _ => rfl⟩
theorem sleepOut : Statement .sleepOut := ⟨rfl, fun _ => rfl⟩
theorem setColorMode : Statement .setColorMode := ⟨rfl, fun _ => rfl⟩
theorem setMemoryAccessControl (mv mx : Bool) : Statement (.setMemoryAccessControl mv mx) := ⟨rfl, fun _ => rfl⟩
theorem setAddressWindowColumns (xs xe : U16) : Statement (.setAddressWindowColumns xs xe) := ⟨rfl, fun _ => rfl⟩
theorem setAddressWindowRows (ys ye : U16) : Statement (.setAddressWindowRows ys ye) := ⟨rfl, fun _ => rfl⟩
theorem memoryWrite (colors : List Color) : Statement (.memoryWrite colors) := ⟨rfl, fun _ => rfl⟩
theorem setScrollArea (t m b : U16) : Statement (.setScrollArea t m b) := ⟨rfl, fun _ => rfl⟩
theorem setScrollOffset (o : U16) : Statement (.setScrollOffset o) := ⟨rfl, fun _ => rfl⟩
theorem displayOn : Statement .displayOn := ⟨rfl, fun _ => rfl⟩

end Sys2Proof.Laws.EncodingKind
end

