-- ==== Sys2Proof/Laws/Trace.lean ====
section
/-!
SUPPORT. The small lemmas of the trace decoder (30_encoding.md rule R95): what ends a payload, what a run of data bytes
gives, and how decoding splits over a list of commands.
-/
namespace Sys2Proof.Machine

@[simp] theorem payloadAhead_nil : payloadAhead [] = [] := rfl
@[simp] theorem payloadAhead_data (b : Byte) (rest : List FlatItem) :
    payloadAhead (.byte .data b :: rest) = b :: payloadAhead rest := rfl
@[simp] theorem payloadAhead_command (b : Byte) (rest : List FlatItem) :
    payloadAhead (.byte .command b :: rest) = [] := rfl
@[simp] theorem payloadAhead_rst (l : BitVec 1) (rest : List FlatItem) : payloadAhead (.rst l :: rest) = [] := rfl
@[simp] theorem payloadAhead_dly (ms : Nat) (rest : List FlatItem) :
    payloadAhead (.dly ms :: rest) = payloadAhead rest := rfl

@[simp] theorem delimit_nil : delimit [] = [] := rfl
@[simp] theorem delimit_command (b : Byte) (rest : List FlatItem) :
    delimit (.byte .command b :: rest) = (b, payloadAhead rest) :: delimit rest := rfl
@[simp] theorem delimit_data (b : Byte) (rest : List FlatItem) : delimit (.byte .data b :: rest) = delimit rest := rfl
@[simp] theorem delimit_rst (l : BitVec 1) (rest : List FlatItem) : delimit (.rst l :: rest) = delimit rest := rfl
@[simp] theorem delimit_dly (ms : Nat) (rest : List FlatItem) : delimit (.dly ms :: rest) = delimit rest := rfl

/-- A payload stops at the first item after which nothing more belongs to it. -/
theorem payloadAhead_append (a : List FlatItem) {b : List FlatItem} (h : payloadAhead b = []) :
    payloadAhead (a ++ b) = payloadAhead a := by
  induction a with
  | nil => exact h
  | cons e a ih =>
    cases e with
    | rst l => rfl
    | dly ms => simpa using ih
    | byte level x => cases level <;> simp [ih]

/-- A run of data bytes is a payload. -/
theorem payloadAhead_bytes (payload : List Byte) {b : List FlatItem} (h : payloadAhead b = []) :
    payloadAhead (payload.map (FlatItem.byte .data) ++ b) = payload := by
  induction payload with
  | nil => exact h
  | cons x payload ih => simp [ih]

/-- A run of data bytes begins no command. -/
theorem delimit_bytes (payload : List Byte) (b : List FlatItem) :
    delimit (payload.map (FlatItem.byte .data) ++ b) = delimit b := by
  induction payload with
  | nil => rfl
  | cons x payload ih => simp [ih]

/-- Decoding splits over the list of commands. -/
theorem decodeCommands_append {c : Cfg} {a b : List (Byte × List Byte)} {found : List TraceCommand}
    (h : decodeCommands c a = .ok found) :
    decodeCommands c (a ++ b) = (decodeCommands c b).map (found ++ ·) := by
  induction a generalizing found with
  | nil =>
    obtain rfl : [] = found := by simpa [decodeCommands] using h
    cases hb : decodeCommands c b <;> simp [hb, Except.map]
  | cons x a ih =>
    cases hx : decodeDelimited c x with
    | error why => simp [decodeCommands, hx] at h
    | ok first =>
      cases ha : decodeCommands c a with
      | error why => simp [decodeCommands, hx, ha] at h
      | ok more =>
        obtain rfl : first :: more = found := by simpa [decodeCommands, hx, ha] using h
        rw [List.cons_append, decodeCommands, hx, ih ha]
        cases decodeCommands c b <;> rfl

end Sys2Proof.Machine
end

