-- ==== Sys2Proof/Tests/Slice0.lean ====
section
/-!
SUPPORT. The model's own tests. Expected values come from the spec: the vectors V and the programs P of
95_test_vectors.md, and words written out from the encodings of 30_encoding.md. `witness_<Name>` shows a state and operands
that meet every hypothesis of `Obligations.<Name>`.
-/
namespace Sys2Proof.Tests
open Sys2Proof Sys2Proof.Machine

/-- The 4×3 panel of P1. -/
def panel : Cfg := { Cfg.default with pw := 4, ph := 3 }

/-- The panel after block reset. -/
def fresh : State := State.resetWith panel

/-- The panel in `READY`. -/
def ready : State := { fresh with phase := .ready }

/-- The panel in `DEAD`. -/
def dead : State := { fresh with phase := .dead }

/-- A 240×240 panel (the default) in `READY`. -/
def square : State := { State.reset with phase := .ready }

/-- A transport with the given verdicts. -/
def withBursts (verdicts : List BurstVerdict) (s : State) : State :=
  { s with env := { s.env with bursts := verdicts } }

/-- The host's presentation of one request. -/
def asked (d : Descriptor) (stream : StreamPort) (s : State) : State := { s with inbox := [.request d stream] }

/-- The state of a next outcome. -/
def nextOf : Host.Outcome State Fault Refusal → Option State
  | .next s => some s
  | .fault _ => none
  | .refused _ => none

/-- What a host sees of a step from an empty trace: the answer and the events. -/
def seen (o : Host.Outcome State Fault Refusal) : Option (List ResponseWord × List Event) :=
  (nextOf o).map fun s => (s.responses, s.trace)

/-- The decoder's answer, without the reason of a refusal. -/
def read (w : Encoded) : Option Instr := (decode Cfg.default w).toOption

/-! ### Well-formedness -/

theorem test_wellFormed_refuses_inverted_columns :
    (Instr.setAddressWindowColumns 3 2).wellFormed panel = false := by decide

theorem test_wellFormed_refuses_columns_off_the_panel :
    (Instr.setAddressWindowColumns 0 4).wellFormed panel = false ∧
    (Instr.setAddressWindowColumns 0 3).wellFormed panel = true := by decide

theorem test_wellFormed_refuses_inverted_rows :
    (Instr.setAddressWindowRows 1 0).wellFormed panel = false := by decide

theorem test_wellFormed_refuses_rows_off_the_panel :
    (Instr.setAddressWindowRows 0 3).wellFormed panel = false ∧
    (Instr.setAddressWindowRows 0 2).wellFormed panel = true := by decide

theorem test_wellFormed_refuses_no_colour : (Instr.memoryWrite []).wellFormed panel = false := by decide

theorem test_stream_wellFormed_refuses_no_end_item :
    pixelStreamWellFormed [itemOf false 0 0 0] = false ∧ pixelStreamWellFormed [itemOf true 0 0 0] = true := by decide

theorem test_stream_wellFormed_refuses_a_wrong_length :
    imageStreamWellFormed 1 1 [0] = false ∧ imageStreamWellFormed 1 1 [0, 0, 0] = false ∧
    imageStreamWellFormed 1 1 [0, 0] = true := by decide

/-! ### Decoding: words written out from R81 to R83 and R88 to R91 -/

theorem test_decode_init : read (.request 0x0000000000000000000000) = some .init := by decide

theorem test_decode_setOrientation :
    read (.request 0x01FFFE1234000500060007) = some (.setOrientation 2) := by decide

theorem test_decode_clear : read (.request 0x02001F0000000000000000) = some (.clear 0x001F) := by decide

theorem test_decode_drawPixels : read (.request 0x0300000000000000000000) = some .drawPixels := by decide

theorem test_decode_fillRect :
    read (.request 0x04000A00270014003BF800) = some (.fillRect 10 39 20 59 0xF800) := by decide

theorem test_decode_drawImage :
    read (.request 0x0500220008005600400000) = some (.drawImage 34 8 86 64) := by decide

theorem test_decode_configureScroll :
    read (.request 0x06002800A0002800000000) = some (.configureScroll 40 160 40) := by decide

theorem test_decode_setOffset : read (.request 0x0700EF0000000000000000) = some (.setOffset 239) := by decide

theorem test_decode_reserved_operations :
    read (.request 0x0800000000000000000000) = none ∧ read (.request 0x2A00010002000300000000) = none ∧
    read (.request 0xFF00000000000000000000) = none := by decide

theorem test_decode_sleepOut : read (.wire [0x11]) = some .sleepOut := by decide

theorem test_decode_setColorMode : read (.wire [0x3A, 0x55]) = some .setColorMode := by decide

theorem test_decode_setMemoryAccessControl :
    read (.wire [0x36, 0x20]) = some (.setMemoryAccessControl true false) ∧
    read (.wire [0x36, 0x40]) = some (.setMemoryAccessControl false true) := by decide

theorem test_decode_setAddressWindowColumns :
    read (.wire [0x2A, 0x00, 0xEE, 0x00, 0xEF]) = some (.setAddressWindowColumns 238 239) := by decide

theorem test_decode_setAddressWindowRows :
    read (.wire [0x2B, 0x01, 0x3E, 0x01, 0x3F]) = some (.setAddressWindowRows 318 319) := by decide

theorem test_decode_memoryWrite :
    read (.wire [0x2C, 0xF8, 0x00, 0x07, 0xE0]) = some (.memoryWrite [0xF800, 0x07E0]) := by decide

theorem test_decode_setScrollArea :
    read (.wire [0x33, 0x00, 0x00, 0x01, 0x40, 0x00, 0x00]) = some (.setScrollArea 0 320 0) := by decide

theorem test_decode_setScrollOffset : read (.wire [0x37, 0x01, 0x3F]) = some (.setScrollOffset 319) := by decide

theorem test_decode_displayOn : read (.wire [0x29]) = some .displayOn := by decide

theorem test_decode_refuses_malformed_commands :
    read (.wire []) = none ∧ read (.wire [0x00]) = none ∧ read (.wire [0x11, 0x00]) = none ∧
    read (.wire [0x2A, 0x00, 0xEE, 0x00]) = none ∧ read (.wire [0x2C]) = none ∧ read (.wire [0x2C, 0xF8]) = none ∧
    read (.wire [0x36, 0x08]) = none := by decide

/-- Every row of spec/opcode_table.json, by its width and its match bits. -/
theorem test_table_rows_decode :
    decodeTableWord 88 0x0000000000000000000000 = some .init ∧
    decodeTableWord 88 0x0100000000000000000000 = some (.setOrientation 0) ∧
    decodeTableWord 88 0x0200000000000000000000 = some (.clear 0) ∧
    decodeTableWord 88 0x0300000000000000000000 = some .drawPixels ∧
    decodeTableWord 88 0x0400000000000000000000 = some (.fillRect 0 0 0 0 0) ∧
    decodeTableWord 88 0x0500000000000000000000 = some (.drawImage 0 0 0 0) ∧
    decodeTableWord 88 0x0600000000000000000000 = some (.configureScroll 0 0 0) ∧
    decodeTableWord 88 0x0700000000000000000000 = some (.setOffset 0) ∧
    decodeTableWord 8 0x11 = some .sleepOut ∧ decodeTableWord 8 0x3A = some .setColorMode ∧
    decodeTableWord 8 0x36 = some (.setMemoryAccessControl false false) ∧
    decodeTableWord 8 0x2A = some (.setAddressWindowColumns 0 0) ∧
    decodeTableWord 8 0x2B = some (.setAddressWindowRows 0 0) ∧ decodeTableWord 8 0x2C = some (.memoryWrite [0]) ∧
    decodeTableWord 8 0x33 = some (.setScrollArea 0 0 0) ∧ decodeTableWord 8 0x37 = some (.setScrollOffset 0) ∧
    decodeTableWord 8 0x29 = some .displayOn := by decide

/-- `INIT` and `sleep_out` placed as the first instruction after reset (V90, V13). -/
theorem test_placed_words_run :
    seen (step (State.reset.withFetchWord 88 0)) = some ([0x10], initEvents State.reset) ∧
    seen (step (State.reset.withFetchWord 8 0x11)) = some ([], [cmd 0x11]) := by decide

/-- V8 and then a `C(2C) D(F8 00 07 E0)` cut after three bytes of its payload (R95). -/
theorem test_decodeTrace_accepts_a_truncated_final_command :
    (decodeTrace Cfg.default (flat
      [cmd 0x2A, dat [0x00, 0xEE, 0x00, 0xEF], cmd 0x2B, dat [0x01, 0x3E, 0x01, 0x3F], cmd 0x2C,
       .burst .data [0xF8, 0x00, 0x07] .faulted])).toOption =
    some [.whole (.setAddressWindowColumns 238 239), .whole (.setAddressWindowRows 318 319),
      .truncated 0x2C [0xF8, 0x00, 0x07]] := by decide

/-- A row command cut inside its payload, a command byte that did not go out (V5) and the start of an `INIT` (V90) are read
to their end (R95); an opcode outside the nine is not (R92). -/
theorem test_decodeTrace_reads_on_after_a_fault :
    (decodeTrace Cfg.default (flat
      [cmd 0x2B, .burst .data [0x01] .faulted, .burst .command [] .faulted, .rst 0, .dly 10, .rst 1, .dly 120, cmd 0x11])).toOption =
      some [.truncated 0x2B [0x01], .whole .sleepOut] ∧
    (decodeTrace Cfg.default [.byte .command 0x00]).toOption = none := by decide

/-! ### One step of each request -/

/-- V90. -/
theorem test_init :
    seen (step (asked 0 .none fresh)) = some ([0x10],
      [.rst 0, .dly 10, .rst 1, .dly 120, cmd 0x11, cmd 0x3A, dat [0x55], cmd 0x36, dat [0x00], cmd 0x29]) := by decide

/-- V95. -/
theorem test_init_faulted :
    seen (step (withBursts [.ok, .ok, .fault 1 0] (asked 0 .none fresh))) = some ([0x2C],
      [.rst 0, .dly 10, .rst 1, .dly 120, cmd 0x11, cmd 0x3A, .burst .data [0x55] .faulted]) := by decide

/-- V56: ignored bits set. -/
theorem test_setOrientation :
    seen (step (asked 0x01FFFE1234000500060007 .none square)) = some ([0x10], [cmd 0x36, dat [0x40]]) := by decide

/-- V57: the rotation is not committed. -/
theorem test_setOrientation_faulted :
    (nextOf (step (withBursts [.ok, .fault 1 0] (asked 0x0100010000000000000000 .none square)))).map
      (fun s => (s.responses, s.trace, s.rot, s.xfault)) =
    some ([0x19], [cmd 0x36, .burst .data [0x20] .faulted], 0, true) := by decide

/-- P1, request 3. -/
theorem test_clear :
    seen (step (asked 0x0212340000000000000000 .none ready)) = some ([0x10],
      [cmd 0x2A, dat [0, 0, 0, 3], cmd 0x2B, dat [0, 0, 0, 2], cmd 0x2C,
       dat [0x12, 0x34, 0x12, 0x34, 0x12, 0x34, 0x12, 0x34, 0x12, 0x34, 0x12, 0x34,
            0x12, 0x34, 0x12, 0x34, 0x12, 0x34, 0x12, 0x34, 0x12, 0x34, 0x12, 0x34]]) := by decide

/-- P4, request 3: the pixel burst ends after five bytes. -/
theorem test_clear_faulted :
    seen (step (withBursts [.ok, .ok, .ok, .ok, .ok, .fault 5 0] (asked 0x02ABCD0000000000000000 .none ready))) =
    some ([0x19],
      [cmd 0x2A, dat [0, 0, 0, 3], cmd 0x2B, dat [0, 0, 0, 2], cmd 0x2C,
       .burst .data [0xAB, 0xCD, 0xAB, 0xCD, 0xAB] .faulted]) := by decide

/-- P1, request 4: the third, fourth and fifth items are dropped. -/
theorem test_drawPixels :
    seen (step (asked 0x0300000000000000000000 (.pixels
      [itemOf false 0 0 0xF800, itemOf false 3 2 0x001F, itemOf false 4 0 0xFFFF, itemOf false 0 3 0xFFFF,
       itemOf false 0xFFFFFFFF 0xFFFFFFFF 0xFFFF, itemOf false 2 1 0x07E0, itemOf true 0 0 0]) ready)) = some ([0x10],
      [cmd 0x2A, dat [0, 0, 0, 0], cmd 0x2B, dat [0, 0, 0, 0], cmd 0x2C, dat [0xF8, 0x00],
       cmd 0x2A, dat [0, 3, 0, 3], cmd 0x2B, dat [0, 2, 0, 2], cmd 0x2C, dat [0x00, 0x1F],
       cmd 0x2A, dat [0, 2, 0, 2], cmd 0x2B, dat [0, 1, 0, 1], cmd 0x2C, dat [0x07, 0xE0]]) := by decide

/-- V65: the extreme coordinates are outside, not wrapped. -/
theorem test_drawPixels_extremes :
    seen (step (asked 0x0300000000000000000000 (.pixels
      [itemOf false 0x80000000 0 1, itemOf false 0 0x7FFFFFFF 1, itemOf true 0 0 0]) square)) = some ([0x10], []) := by
  decide

/-- V78: one logical pixel at 90°. -/
theorem test_fillRect :
    seen (step (asked 0x0400020002000300030F0F .none { ready with rot := 1 })) = some ([0x10],
      [cmd 0x2A, dat [0, 0, 0, 0], cmd 0x2B, dat [0, 2, 0, 2], cmd 0x2C, dat [0x0F, 0x0F]]) := by decide

/-- V69 and V67: an inverted window, and a window one row too high. -/
theorem test_fillRect_outside :
    seen (step (asked 0x0400030002000000000000 .none ready)) = some ([0x12], []) ∧
    seen (step (asked 0x040000013F000000F00000 .none { square with ph := 320, rot := 1 })) = some ([0x12], []) := by
  decide

/-- V75: stream order kept at 180°. -/
theorem test_drawImage :
    seen (step (asked 0x0500010001000300020000 (.bytes [1, 0, 2, 0, 3, 0, 4, 0, 5, 0, 6, 0]) { ready with rot := 2 })) =
    some ([0x10],
      [cmd 0x2A, dat [0, 0, 0, 2], cmd 0x2B, dat [0, 0, 0, 1], cmd 0x2C,
       dat [0, 1, 0, 2, 0, 3, 0, 4, 0, 5, 0, 6]]) := by decide

/-- V72, V73 and V74: no wrap of `x + w`; an empty rectangle under either policy. -/
theorem test_drawImage_corners :
    seen (step (asked 0x05FFFF0000000200010000 .none square)) = some ([0x12], []) ∧
    seen (step (asked 0x0500010001000000020000 .none square)) = some ([0x12], []) ∧
    seen (step (asked 0x0500010001000000020000 .none
      { square with cfg := { Cfg.default with emptyRectPolicy := .noop } })) = some ([0x10], []) := by decide

/-- V82. -/
theorem test_configureScroll :
    (nextOf (step (asked 0x06002800A0002800000000 .none
      { square with scr := { top := 0, area := 240, bottom := 0, offset := 239 } }))).map
      (fun s => (s.responses, s.trace, s.scr)) =
    some ([0x10], [cmd 0x33, dat [0x00, 0x28, 0x00, 0xA0, 0x00, 0x28]],
      { top := 40, area := 160, bottom := 40, offset := 0 }) := by decide

/-- V86: the sum is exact, not 16 bits wide. -/
theorem test_configureScroll_invalid :
    seen (step (asked 0x06FFFF000100F000000000 .none square)) = some ([0x13], []) := by decide

/-- V80. -/
theorem test_setOffset :
    (nextOf (step (asked 0x0700EF0000000000000000 .none square))).map (fun s => (s.responses, s.trace, s.scr.offset)) =
    some ([0x10], [cmd 0x37, dat [0x00, 0xEF]], 239) := by decide

/-- V81 and V85: the boundary, and an empty scroll area. -/
theorem test_setOffset_outside :
    seen (step (asked 0x0700F00000000000000000 .none square)) = some ([0x12], []) ∧
    seen (step (asked 0x0700000000000000000000 .none
      { square with scr := { top := 240, area := 0, bottom := 0, offset := 0 } })) = some ([0x12], []) := by decide

/-- V97, V98, V101: gating and decode. -/
theorem test_gating :
    seen (step (asked 0x0200000000000000000000 .none fresh)) = some ([0x05], []) ∧
    seen (step (asked 0x0800000000000000000000 .none fresh)) = some ([0x06], []) ∧
    seen (step (asked 0xFF00000000000000000000 .none dead)) = some ([0x26], []) := by decide

/-! ### Wire commands by themselves -/

/-- V13, V12, V11, V8, V9, V10. -/
theorem test_wire_commands :
    seen (exec .sleepOut fresh) = some ([], [cmd 0x11]) ∧ seen (exec .displayOn fresh) = some ([], [cmd 0x29]) ∧
    seen (exec .setColorMode fresh) = some ([], [cmd 0x3A, dat [0x55]]) ∧
    seen (exec (.setMemoryAccessControl (flagMV 3) (flagMX 3 true)) fresh) = some ([], [cmd 0x36, dat [0x20]]) ∧
    seen (exec (.setAddressWindowColumns 238 239) fresh) = some ([], [cmd 0x2A, dat [0x00, 0xEE, 0x00, 0xEF]]) ∧
    seen (exec (.setAddressWindowRows 318 319) fresh) = some ([], [cmd 0x2B, dat [0x01, 0x3E, 0x01, 0x3F]]) ∧
    seen (exec (.setScrollArea 0 320 0) fresh) = some ([], [cmd 0x33, dat [0x00, 0x00, 0x01, 0x40, 0x00, 0x00]]) ∧
    seen (exec (.setScrollOffset 319) fresh) = some ([], [cmd 0x37, dat [0x01, 0x3F]]) := by decide

/-- V3 and V4 after the command byte of V1. -/
theorem test_memoryWrite :
    seen (exec (.memoryWrite [0xF800, 0x07E0]) fresh) = some ([], [cmd 0x2C, dat [0xF8, 0x00, 0x07, 0xE0]]) ∧
    seen (exec (.memoryWrite [0xF800, 0x07E0]) (withBursts [.ok, .fault 3 0] fresh)) =
      some ([], [cmd 0x2C, .burst .data [0xF8, 0x00, 0x07] .faulted]) := by decide

/-- V5. -/
theorem test_command_byte_faulted :
    seen (exec (.setMemoryAccessControl false false) (withBursts [.fault 0 0] fresh)) =
    some ([], [.burst .command [] .faulted]) := by decide

/-! ### The mapper and the pixel space -/

/-- V24, V30, V39, V40 and V22. -/
theorem test_rectOK :
    rectOK 0 240 320 236 0 5 1 = false ∧ rectOK 1 240 320 0 239 1 2 = false ∧ rectOK 2 240 320 65535 0 2 1 = false ∧
    rectOK 3 240 320 5 5 0 1 = false ∧ rectOK 0 240 320 0 0 240 320 = true := by decide

/-- V28, V33, V37 and V29, with `cw` and `ccw`. -/
theorem test_translateRect :
    translateRect .cw 1 240 320 10 20 30 40 = windowOf 180 219 10 39 ∧
    translateRect .ccw 1 240 320 10 20 30 40 = windowOf 20 59 280 309 ∧
    translateRect .cw 2 240 320 10 20 30 40 = windowOf 200 229 260 299 ∧
    translateRect .cw 3 240 320 10 20 30 40 = windowOf 20 59 280 309 ∧
    translateRect .cw 1 240 320 315 0 5 1 = windowOf 239 239 315 319 := by decide

/-- The pixel space of P1 after its third request. -/
theorem test_pixelSpace_of_clear :
    (nextOf (exec (.clear 0x1234) ready)).map (fun s =>
      (Memory.read (pixelSpace s.cfg s.trace) (pixelAddress 3 2), (pixelSpace s.cfg s.trace).length)) =
    some (some 0x1234, 12) := by decide

/-- A write into an inverted window leaves nothing determined (DESIGN CHOICE, log entry 10). -/
theorem test_storeWindow_inverted :
    storeWindow (windowOf 3 2 0 0) [0x1234] [(0, 0xFFFF)] = [] ∧
    storeWindow (windowOf 3 3 0 0) [0x1234] [(0, 0xFFFF)] = [(0, 0xFFFF), (3, 0x1234)] := by decide

/-! ### Witnesses: what each statement assumes can hold -/

/-- A pixel item at (1, 1). -/
def pixel : PixelItem := itemOf false 1 1 0x07E0

/-- An end item. -/
def last : PixelItem := itemOf true 0 0 0

/-- A configuration with no panel. -/
def noPanel : Cfg := { Cfg.default with pw := 0 }

theorem witness_EncodeThenDecodeGivesTheInstruction :
    cfgValid panel = true ∧ (Instr.setAddressWindowColumns 3 3).wellFormed panel = true ∧
    (Instr.setAddressWindowRows 0 2).wellFormed panel = true ∧ (Instr.memoryWrite [0xFFFF]).wellFormed panel = true := by
  decide

theorem witness_IgnoredBitsDoNotChangeTheRequest :
    (0x01FFFE1234000500060007 : Descriptor) &&& operandMask (Op.code 0x01FFFE1234000500060007) =
      0x0100020000000000000000 &&& operandMask (Op.code 0x01FFFE1234000500060007) ∧
    (0x01FFFE1234000500060007 : Descriptor) ≠ 0x0100020000000000000000 := by decide

theorem witness_StepRunsTheDecodedRequest :
    (asked 0 .none fresh).idle = true ∧ (asked 0 .none fresh).inbox = [.request 0 .none] ∧
    decodeRequest 0 = .ok .init := ⟨by decide, rfl, rfl⟩

theorem witness_StepRunsTheDecodedWireCommand :
    cfgValid { fresh with direct := some [0x11] }.cfg = true ∧ { fresh with direct := some [0x11] }.busy = false ∧
    { fresh with direct := some [0x11] }.direct = some [0x11] ∧ decodeWire panel [0x11] = .ok .sleepOut :=
  ⟨by decide, rfl, rfl, rfl⟩

theorem witness_ReservedOperationsAreIllegalRequests :
    (asked 0x0800000000000000000000 .none dead).idle = true ∧ 7 < (Op.code 0x0800000000000000000000).toNat ∧
    7 < (Op.code 0xFF00000000000000000000).toNat := by decide

theorem witness_BlockWithNothingToDoWaits :
    fresh.idle = true ∧ fresh.inbox = [] ∧ cfgValid { fresh with busy := true }.cfg = true ∧
    ∀ rest, { fresh with busy := true }.inbox ≠ .blockReset :: rest :=
  ⟨by decide, rfl, by decide, fun _ => List.cons_ne_nil _ _ |>.symm⟩

theorem witness_BlockResetOfAnIdleBlock :
    cfgValid dead.cfg = true ∧ { dead with inbox := [.blockReset] }.inbox = [.blockReset] ∧ dead.busy = false ∧
    dead.direct = none ∧ { dead with busy := true }.busy = true := ⟨by decide, rfl, rfl, rfl, rfl⟩

theorem witness_RequestsOutsideTheirPhaseAreNotReady :
    cfgValid dead.cfg = true ∧ Instr.init.isWire = false ∧ dead.phase = .dead ∧ fresh.phase = .uninit ∧
    (Instr.clear 0).isWire = false ∧ Instr.clear 0 ≠ .init := by decide

theorem witness_InvalidConfigurationIsRefused : cfgValid (State.resetWith noPanel).cfg = false := by decide

theorem witness_InitRunsItsSequence :
    cfgValid fresh.cfg = true ∧ fresh.phase ≠ .dead ∧ ready.phase ≠ .dead ∧ fresh.env.clear 6 = true ∧
    fresh.env.returns 2 = true ∧ fresh.env.initAck = true := by decide

theorem witness_MissingAcknowledgeEndsInit :
    let env : Env := { bursts := [.ok, .ok, .ok, .fault 0 0], delays := [true, true], acks := [false] }
    env.clear 3 = true ∧ env.returns 2 = true ∧ env.initAck = false := by decide

/-- The first, the fourth and the last of the six bursts of `INIT`. -/
theorem witness_FailedInitLeavesADeadBlock_burst :
    (withBursts [.fault 1 0] fresh).env.clear 0 = true ∧ ((withBursts [.fault 1 0] fresh).env.after 0).verdict = .fault 1 0 ∧
    (withBursts [.ok, .ok, .ok, .fault 0 0] fresh).env.clear 3 = true ∧
    ((withBursts [.ok, .ok, .ok, .fault 0 0] fresh).env.after 3).verdict = .fault 0 0 ∧
    (withBursts [.ok, .ok, .ok, .ok, .ok, .fault 1 0] fresh).env.clear 5 = true ∧
    ((withBursts [.ok, .ok, .ok, .ok, .ok, .fault 1 0] fresh).env.after 5).verdict = .fault 1 0 ∧
    (initEvents fresh)[4 + 0]? = some (.burst .command [0x11] .complete) ∧
    (initEvents fresh)[4 + 3]? = some (.burst .command [0x36] .complete) ∧
    (initEvents fresh)[4 + 5]? = some (.burst .command [0x29] .complete) ∧
    cfgValid fresh.cfg = true ∧ fresh.phase ≠ .dead ∧ fresh.env.returns 2 = true ∧ fresh.env.initAck = true := by decide

theorem witness_FailedInitLeavesADeadBlock :
    ∃ t, fresh.phase ≠ .dead ∧ exec .init (withBursts [.ok, .fault 0 0] fresh) = .next t ∧ t.busy = false ∧
      t.phase ≠ .ready ∧ t.xfault = true := ⟨_, by decide, rfl, by decide, by decide, by decide⟩

theorem witness_FailedInitLeavesADeadBlock_acknowledge :
    ∃ t, exec .init { fresh with env := { fresh.env with acks := [false] } } = .next t ∧ t.busy = false ∧
      t.phase ≠ .ready ∧ t.xfault = false ∧ responseCode 0x24 = 4 ∧
      t.responses = { fresh with env := { fresh.env with acks := [false] } }.responses ++ [0x24] :=
  ⟨_, rfl, by decide, by decide, by decide, by decide, by decide⟩

theorem witness_SetOrientationSendsItsByteAndCommits : ready.serves = true ∧ ready.env.clear 2 = true := by decide

theorem witness_ClearSendsTheFullScreen : ready.serves = true ∧ ready.env.clear 6 = true := by decide

theorem witness_DrawPixelsServesTheItemsInOrder :
    ready.serves = true ∧ { ready with stream := .pixels ([pixel] ++ last :: [pixel]) }.stream =
      .pixels ([pixel] ++ last :: [pixel]) ∧ [pixel].all (fun t => !Item.isEnd t) = true ∧ Item.isEnd last = true ∧
    ready.env.clear (6 * [pixel].length) = true := by decide

theorem witness_FillRectSendsOneWindowAndItsPixels :
    ready.serves = true ∧ ready.env.clear 6 = true ∧
    winOK ready.rot ready.pw.toNat ready.ph.toNat (0 : U16).toNat (3 : U16).toNat (0 : U16).toNat (2 : U16).toNat = true := by
  decide

theorem witness_DrawImageSendsTheStreamPixels :
    ready.serves = true ∧ ready.env.clear 6 = true ∧
    rectOK ready.rot ready.pw.toNat ready.ph.toNat (3 : U16).toNat (2 : U16).toNat (1 : U16).toNat (1 : U16).toNat = true ∧
    { ready with stream := .bytes [1, 2] }.stream = .bytes [1, 2] ∧
    2 * ((1 : U16).toNat * (1 : U16).toNat) ≤ [1, 2].length := by decide

theorem witness_DrawImageSendsTheStreamPixels_empty :
    { ready with cfg := { panel with emptyRectPolicy := .noop } }.serves = true ∧
    { panel with emptyRectPolicy := .noop }.emptyRectPolicy = .noop := by decide

theorem witness_ConfigureScrollSendsAndCommitsTheLayout :
    ready.serves = true ∧ ready.env.clear 2 = true ∧
    (3 : U16).toNat + (0 : U16).toNat + (0 : U16).toNat = ready.ph.toNat := by decide

theorem witness_SetOffsetSendsAndCommitsTheOffset :
    ready.serves = true ∧ ready.env.clear 2 = true ∧ (2 : U16).toNat < ready.scr.area.toNat := by decide

theorem witness_PlainCommandsAreOneOpcodeByte :
    cfgValid fresh.cfg = true ∧ fresh.cfg.opcSlpout = 0x11 ∧ fresh.cfg.opcDispon = 0x29 ∧ fresh.env.verdict = .ok ∧
    (withBursts [.fault 1 0] fresh).env.verdict = .fault 1 0 := by decide

theorem witness_CommandsWithPayloadSendTheirBytes :
    cfgValid fresh.cfg = true ∧ fresh.env.clear 2 = true ∧ fresh.cfg.opcVscsad = 0x37 ∧
    [hi8 319, lo8 319] = [0x01, 0x3F] ∧ [(0x1234 : Color)] ≠ [] ∧ (0x1234 : Color) = join16 0x12 0x34 := by decide

theorem witness_FaultedCommandsStopAtTheFault :
    cfgValid fresh.cfg = true ∧ (Instr.setScrollOffset 319).wellFormed fresh.cfg = true ∧
    encodeWire fresh.cfg (.setScrollOffset 319) = some (0x37, 0x01 :: [0x3F]) ∧
    (withBursts [.fault 0 0] fresh).env.verdict = .fault 0 0 ∧
    (withBursts [.ok, .fault 2 0] fresh).env.verdict = .ok ∧
    (withBursts [.ok, .fault 2 0] fresh).env.afterBurst.verdict = .fault 2 0 := by decide

theorem witness_WireCommandsAddTheirEncodingToTheTrace :
    cfgValid fresh.cfg = true ∧ (Instr.memoryWrite [0x1234]).wellFormed fresh.cfg = true ∧ fresh.env.clear 2 = true ∧
    encodeWire fresh.cfg (.memoryWrite [0x1234]) = some (0x2C, [0x12, 0x34]) ∧ 0 < [(0x12 : Byte), 0x34].length ∧
    1 < [(0x12 : Byte), 0x34].length ∧
    (∀ i ∈ [Instr.sleepOut, .memoryWrite [0x1234]], i.isWire = true ∧ i.wellFormed fresh.cfg = true) := by decide

theorem witness_MalformedWireCommandsStop :
    cfgValid fresh.cfg = true ∧ fresh.busy = false ∧ { fresh with direct := some [0x00] }.direct = some [0x00] ∧
    decodeWire panel [0x00] = .error (.unknownOpcode 0x00) ∧ decodeWire panel [0x3A, 0x00] = .ok .setColorMode ∧
    decodeWire panel [0x29] = .ok .displayOn ∧ 0x00 ∉ opcodes panel :=
  ⟨by decide, rfl, rfl, rfl, rfl, rfl, by decide⟩

theorem witness_OutOfBoundsSendsNothing :
    ready.serves = true ∧
    winOK ready.rot ready.pw.toNat ready.ph.toNat (0 : U16).toNat (4 : U16).toNat (0 : U16).toNat (2 : U16).toNat = false ∧
    rectOK ready.rot ready.pw.toNat ready.ph.toNat (0 : U16).toNat (0 : U16).toNat (0 : U16).toNat (2 : U16).toNat = false ∧
    ready.cfg.emptyRectPolicy = .reject ∧ ready.scr.area.toNat ≤ (3 : U16).toNat := by decide

theorem witness_OutOfBoundsSendsNothing_answer :
    ∃ t w, exec (.setOffset 3) ready = .next t ∧ t.responses = ready.responses ++ [w] ∧ responseCode w = 2 :=
  ⟨_, 0x12, rfl, by decide, by decide⟩

theorem witness_InvalidScrollLayoutSendsNothing :
    ready.serves = true ∧ (1 : U16).toNat + (1 : U16).toNat + (0 : U16).toNat ≠ ready.ph.toNat ∧
    ∃ t w, exec (.configureScroll 1 1 0) ready = .next t ∧ t.responses = ready.responses ++ [w] ∧ responseCode w = 3 :=
  ⟨by decide, by decide, _, 0x13, rfl, by decide, by decide⟩

theorem witness_TransportErrorCommitsNothing :
    ∃ t w, exec (.setOffset 2) (withBursts [.ok, .fault 1 0] ready) = .next t ∧
      t.responses = (withBursts [.ok, .fault 1 0] ready).responses ++ [w] ∧ responseCode w = 1 ∧
      t.trace = (withBursts [.ok, .fault 1 0] ready).trace ++ [cmd 0x37, .burst .data [0x00] .faulted] ∧
      [cmd 0x37, .burst .data [0x00] .faulted].any Event.isFault = true :=
  ⟨_, 0x19, rfl, by decide, by decide, by decide, by decide⟩

/-- The panel in `READY` with a transport whose second burst faults after one byte. -/
def secondFaults : State := withBursts [.ok, .fault 1 0] ready

theorem witness_FaultedBurstEndsTheRequest :
    secondFaults.serves = true ∧ secondFaults.env.clear 1 = true ∧ (secondFaults.env.after 1).verdict = .fault 1 0 ∧
    (withBursts [.fault 1 0] ready).env.clear 0 = true ∧ ((withBursts [.fault 1 0] ready).env.after 0).verdict = .fault 1 0 ∧
    [cmd 0x37, dat [0x00, 0x02]][1]? = some (.burst .data [0x00, 0x02] .complete) ∧
    (storeEvents panel (windowOf 3 3 2 2) [])[4]? = some (.burst .command [0x2C] .complete) ∧
    winOK ready.rot ready.pw.toNat ready.ph.toNat (3 : U16).toNat (3 : U16).toNat (2 : U16).toNat (2 : U16).toNat = true ∧
    rectOK ready.rot ready.pw.toNat ready.ph.toNat (3 : U16).toNat (2 : U16).toNat (1 : U16).toNat (1 : U16).toNat = true ∧
    (1 : U16).toNat + (1 : U16).toNat + (1 : U16).toNat = ready.ph.toNat ∧
    (2 : U16).toNat < ready.scr.area.toNat := by decide

theorem witness_DrawPixelsStopsAtTheFault :
    let s : State := { secondFaults with stream := .pixels ([] ++ pixel :: [last]) }
    s.serves = true ∧ s.stream = .pixels ([] ++ pixel :: [last]) ∧ Item.isEnd pixel = false ∧
    positionInside s.rot s.pw.toNat s.ph.toNat (Item.x pixel) (Item.y pixel) = true ∧
    (storeEvents s.cfg (s.translate 1 1 1 1) [0x07, 0xE0])[1]? = some (.burst .data [0, 1, 0, 1] .complete) ∧
    s.env.clear (6 * ([] : List PixelItem).length + 1) = true ∧
    (s.env.after (6 * ([] : List PixelItem).length + 1)).verdict = .fault 1 0 := by decide

theorem witness_FaultedImageStopsInsideItsPixels :
    let s : State := { withBursts [.ok, .ok, .ok, .ok, .ok, .fault 1 0] ready with stream := .bytes [1, 2] }
    s.serves = true ∧
    rectOK s.rot s.pw.toNat s.ph.toNat (3 : U16).toNat (2 : U16).toNat (1 : U16).toNat (1 : U16).toNat = true ∧
    s.stream = .bytes [1, 2] ∧ 2 * ((1 : U16).toNat * (1 : U16).toNat) ≤ [1, 2].length ∧ s.env.clear 5 = true ∧
    (s.env.after 5).verdict = .fault 1 0 := by decide

theorem witness_XfaultRecordsFaultedBursts :
    Instr.clear 0 ≠ .init ∧ ∃ t, exec (.clear 0) (withBursts [.ok, .fault 3 0] ready) = .next t ∧ t.xfault = true :=
  ⟨by decide, _, rfl, by decide⟩

theorem witness_ExhaustedStreamsAreRefused :
    { ready with stream := .bytes [1] }.serves = true ∧ { ready with stream := .bytes [1] }.env.clear 6 = true ∧
    rectOK ready.rot ready.pw.toNat ready.ph.toNat (3 : U16).toNat (2 : U16).toNat (1 : U16).toNat (1 : U16).toNat = true ∧
    { ready with stream := .bytes [1] }.stream.byteItems.length < 2 * ((1 : U16).toNat * (1 : U16).toNat) ∧
    { ready with stream := .pixels [pixel] }.env.clear (6 * [pixel].length) = true ∧
    { ready with stream := .pixels [pixel] }.stream.pixelItems.all (fun t => !Item.isEnd t) = true := by decide

/-- Burst 1 of `SET_OFFSET`, of `INIT` and of a wire command. -/
theorem witness_RequestThatNeverReturnsIsNeverAnswered_burst :
    let s := withBursts [.ok, .hang 1 0] ready
    s.serves = true ∧ s.phase ≠ .dead ∧ s.env.clear 1 = true ∧ (s.env.after 1).verdict = .hang 1 0 ∧
    s.env.returns 2 = true ∧ (2 : U16).toNat < s.scr.area.toNat ∧
    [cmd s.cfg.opcVscsad, dat [hi8 2, lo8 2]][1]? = some (.burst .data [0x00, 0x02] .complete) ∧
    (initEvents s)[4 + 1]? = some (.burst .command [0x3A] .complete) ∧
    (Instr.setColorMode).wellFormed s.cfg = true ∧
    (wireEvents s.cfg .setColorMode)[1]? = some (.burst .data [0x55] .complete) := by decide

theorem witness_RequestThatNeverReturnsIsNeverAnswered_sends : Sends ready (.setOffset 2) [cmd 0x37, dat [0x00, 0x02]] :=
  .inr (.inr (.inr (.inr (.inr (.inr ⟨2, rfl, by decide, by decide⟩)))))

theorem witness_RequestThatNeverReturnsIsNeverAnswered_delays :
    { fresh with env := { fresh.env with delays := [false] } }.env.delays = false :: [] ∧
    { fresh with env := { fresh.env with delays := [true, false] } }.env.delays = true :: false :: [] ∧
    cfgValid fresh.cfg = true ∧ fresh.phase ≠ .dead := by decide

theorem witness_RequestThatNeverReturnsIsNeverAnswered :
    ∃ t, (withBursts [.hang 1 0] (asked 0x0200000000000000000000 .none ready)).idle = true ∧
      step (withBursts [.hang 1 0] (asked 0x0200000000000000000000 .none ready)) = .next t ∧ t.busy = true ∧
      ∀ rest, t.inbox ≠ .blockReset :: rest :=
  ⟨_, by decide, rfl, by decide, fun _ => List.cons_ne_nil _ _ |>.symm⟩

theorem witness_EveryFinishedRequestHasOneResponse :
    ∃ t, (asked 0x0200000000000000000000 .none fresh).idle = true ∧
      step (asked 0x0200000000000000000000 .none fresh) = .next t ∧ t.busy = false := ⟨_, by decide, rfl, by decide⟩

theorem witness_DrawingRequestsKeepTheRegisters :
    drawsPixels (.clear 0x1234) = true ∧ ∃ t, exec (.clear 0x1234) ready = .next t := ⟨by decide, _, rfl⟩

theorem witness_ControlRequestsKeepTheOtherRegisters :
    (∃ t, exec (.setOrientation 3) ready = .next t) ∧ isScroll (.setOffset 2) = true ∧
    (∃ t, exec (.setOffset 2) ready = .next t) ∧ ∃ t, exec .init fresh = .next t :=
  ⟨⟨_, rfl⟩, by decide, ⟨_, rfl⟩, _, rfl⟩

theorem witness_WireCommandsKeepTheRegisters :
    Instr.sleepOut.isWire = true ∧ ∃ t, exec .sleepOut fresh = .next t := ⟨by decide, _, rfl⟩

theorem witness_WireCommandsKeepTheRegisters_stalled :
    ∃ t, exec .sleepOut (withBursts [.hang 0 0] fresh) = .next t ∧ t.busy = true ∧ fresh.busy = false :=
  ⟨_, rfl, by decide, by decide⟩

theorem witness_DrawingReadsNeitherScrollNorMirror : drawsPixels .drawPixels = true := by decide

theorem witness_ScrollReadsNeitherRotationNorMirror : isScroll (.configureScroll 1 1 1) = true := by decide

theorem witness_UntranslateUndoesTranslate :
    rectOK 1 (240 : U16).toNat (320 : U16).toNat 319 239 1 1 = true := by decide

theorem witness_TranslateFollowsItsTable :
    rectOK 0 (240 : U16).toNat (320 : U16).toNat 0 0 240 320 = true ∧
    rectOK 2 (240 : U16).toNat (320 : U16).toNat 239 319 1 1 = true ∧
    rectOK 1 (240 : U16).toNat (320 : U16).toNat 0 0 320 240 = true ∧
    rectOK 3 (240 : U16).toNat (320 : U16).toNat 315 0 5 1 = true := by decide

theorem witness_TranslateKeepsThePixelCountAndTheFullScreen :
    rectOK 3 (4 : U16).toNat (3 : U16).toNat 0 0 3 4 = true ∧ 0 < (4 : U16).toNat ∧ 0 < (3 : U16).toNat := by decide

theorem witness_EveryPhysicalPositionHasOneLogicalPosition : 3 < (4 : U16).toNat ∧ 2 < (3 : U16).toNat := by decide

theorem witness_WinOKIsRectOKOfTheCoveredRectangle : 3 ≤ 3 ∧ 2 ≤ 2 ∧ (2 < 3 ∨ 1 < 2) := by decide

theorem witness_OrientationByteFlags : cfgValid panel = true := by decide

theorem witness_ImageStreamBytesAreSwappedInPairs :
    let stream : List Byte := [0xE0, 0x07, 0x1F, 0x00]
    stream.length = 2 * 2 ∧ stream[2 * 1]? = some 0x1F ∧ stream[2 * 1 + 1]? = some 0x00 := by decide

theorem witness_RequestsSendTheirByteCounts :
    ready.serves = true ∧ ready.env.clear 6 = true ∧ ready.env.returns 2 = true ∧ ready.env.initAck = true ∧
    positionInside ready.rot ready.pw.toNat ready.ph.toNat (Item.x pixel) (Item.y pixel) = true ∧
    { ready with stream := .pixels [pixel, last] }.stream = .pixels [pixel, last] ∧
    winOK ready.rot ready.pw.toNat ready.ph.toNat (0 : U16).toNat (3 : U16).toNat (0 : U16).toNat (2 : U16).toNat = true ∧
    rectOK ready.rot ready.pw.toNat ready.ph.toNat (3 : U16).toNat (2 : U16).toNat (1 : U16).toNat (1 : U16).toNat = true ∧
    (1 : U16).toNat + (1 : U16).toNat + (1 : U16).toNat = ready.ph.toNat ∧
    (2 : U16).toNat < ready.scr.area.toNat := by decide

theorem witness_EqualWindowsSendEqualBytes_fullScreen :
    ready.serves = true ∧ ready.env.clear 6 = true ∧ (3 : U16).toNat + 1 = ready.lw ∧ (2 : U16).toNat + 1 = ready.lh ∧
    (∃ t, exec (.fillRect 0 3 0 2 0x5555) ready = .next t) ∧ ∃ u, exec (.clear 0x5555) ready = .next u :=
  ⟨by decide, by decide, by decide, by decide, ⟨_, rfl⟩, _, rfl⟩

theorem witness_EqualWindowsSendEqualBytes_onePixel :
    (2 : BitVec 32).toInt = ((2 : U16).toNat : Int) ∧ (1 : BitVec 32).toInt = ((1 : U16).toNat : Int) ∧
    winOK ready.rot ready.pw.toNat ready.ph.toNat (2 : U16).toNat (2 : U16).toNat (1 : U16).toNat (1 : U16).toNat = true ∧
    (∃ t, exec (.fillRect 2 2 1 1 0x0F0F) ready = .next t) ∧
    ∃ u, exec .drawPixels { ready with stream := .pixels [itemOf false 2 1 0x0F0F, itemOf true 0 0 0] } = .next u :=
  ⟨by decide, by decide, by decide, ⟨_, rfl⟩, _, rfl⟩

theorem witness_EqualWindowsSendEqualBytes_afterClear :
    ready.env.clear 12 = true ∧ Item.isEnd pixel = false ∧
    ∃ t u v, exec (.clear 0x001F) ready = .next t ∧
      exec .drawPixels { t with stream := .pixels [pixel, itemOf true 0 0 0] } = .next u ∧
      exec .drawPixels { ready with stream := .pixels [pixel, itemOf true 0 0 0] } = .next v :=
  ⟨by decide, by decide, _, _, _, rfl, rfl, rfl⟩

theorem witness_DrawPixelsIsItsItemsOneByOne :
    ready.serves = true ∧ Item.isEnd pixel = false ∧ [pixel].all (fun p => !Item.isEnd p) = true ∧
    Item.isEnd last = true ∧ ready.env.clear (6 * ([pixel].length + 1)) = true ∧
    ∃ t u v, exec .drawPixels { ready with stream := .pixels (pixel :: [pixel] ++ [last]) } = .next t ∧
      exec .drawPixels { ready with stream := .pixels [pixel, last] } = .next u ∧
      exec .drawPixels { u with stream := .pixels ([pixel] ++ [last]) } = .next v :=
  ⟨by decide, by decide, by decide, by decide, by decide, _, _, _, rfl, rfl, rfl⟩

theorem witness_FillsStoreTheirWindowAndNothingElse :
    ready.serves = true ∧ strapsOk ready = true ∧ ready.env.clear 6 = true ∧
    winOK ready.rot ready.pw.toNat ready.ph.toNat (0 : U16).toNat (3 : U16).toNat (2 : U16).toNat (2 : U16).toNat = true := by
  decide

/-- The panel with the window of pixel (3, 2) sent. -/
def windowSent : State :=
  { fresh with trace := [cmd 0x2A, dat [0, 3, 0, 3], cmd 0x2B, dat [0, 2, 0, 2]] }

theorem witness_OtherInstructionsStoreOnlyInTheirWindow :
    ready.serves = true ∧ ready.env.clear 6 = true ∧ ready.env.clear 2 = true ∧
    rectOK ready.rot ready.pw.toNat ready.ph.toNat (3 : U16).toNat (2 : U16).toNat (1 : U16).toNat (1 : U16).toNat = true ∧
    2 * ((1 : U16).toNat * (1 : U16).toNat) ≤ [1, 2].length ∧
    positionInside ready.rot ready.pw.toNat ready.ph.toNat (Item.x pixel) (Item.y pixel) = true ∧
    (∃ t, exec (.setOrientation 1) ready = .next t) ∧ isScroll (.setOffset 2) = true ∧
    (∃ t, exec (.setOffset 2) ready = .next t) ∧ ∃ t, exec .sleepOut fresh = .next t :=
  ⟨by decide, by decide, by decide, by decide, by decide, by decide, ⟨_, rfl⟩, by decide, ⟨_, rfl⟩, _, rfl⟩

theorem witness_OtherInstructionsStoreOnlyInTheirWindow_memoryWrite :
    cfgValid windowSent.cfg = true ∧ windowSent.env.clear 2 = true ∧ [(0x1234 : Color)] ≠ [] ∧
    [(0x1234 : Color)].length = (windowOf 3 3 2 2).pixels ∧
    (observe windowSent.cfg windowSent.trace).columns = some ((windowOf 3 3 2 2).xStart, (windowOf 3 3 2 2).xEnd) ∧
    (observe windowSent.cfg windowSent.trace).rows = some ((windowOf 3 3 2 2).yStart, (windowOf 3 3 2 2).yEnd) := by
  decide

/-- An inverted window, as only the direct port can send it (log entry 4). -/
def invertedSent : State :=
  { fresh with trace := [cmd 0x2A, dat [0, 3, 0, 2], cmd 0x2B, dat [0, 2, 0, 2]] }

theorem witness_OtherInstructionsStoreOnlyInTheirWindow_inverted :
    [(0x1234 : Color)].length = (windowOf 3 2 2 2).pixels ∧ (windowOf 3 2 2 2).inverted = true ∧
    (windowOf 3 3 2 2).inverted = false ∧
    (observe invertedSent.cfg invertedSent.trace).columns = some ((windowOf 3 2 2 2).xStart, (windowOf 3 2 2 2).xEnd) ∧
    (observe invertedSent.cfg invertedSent.trace).rows = some ((windowOf 3 2 2 2).yStart, (windowOf 3 2 2 2).yEnd) := by
  decide

theorem witness_EveryStepKeepsTheInvariant :
    ∃ t, (asked 0 .none fresh).inv = true ∧ step (asked 0 .none fresh) = .next t ∧ t.phase = .ready :=
  ⟨_, by decide, rfl, by decide⟩

theorem witness_ResetMeetsTheInvariant : cfgValid panel = true := by decide

theorem witness_PhaseChangesOnlyByInitAndReset :
    (∃ t, step (asked 0 .none fresh) = .next t ∧ t.phase ≠ (asked 0 .none fresh).phase) ∧
    ∃ t, step { dead with inbox := [.blockReset] } = .next t ∧ t.phase ≠ dead.phase :=
  ⟨⟨_, rfl, by decide⟩, _, rfl, by decide⟩

theorem witness_StrapsAndRotationAreKept :
    ∃ t, step (asked 0x0100020000000000000000 .none ready) = .next t ∧ t.rot ≠ ready.rot ∧
      ∀ rest, (asked 0x0100020000000000000000 .none ready).inbox ≠ .blockReset :: rest :=
  ⟨_, rfl, by decide, fun _ h => by simp [asked] at h⟩

theorem witness_TraceOnlyGrows :
    ∃ t, step (asked 0x0200000000000000000000 .none ready) = .next t ∧ t.trace ≠ [] ∧
      ∀ rest, (asked 0x0200000000000000000000 .none ready).inbox ≠ .blockReset :: rest :=
  ⟨_, rfl, by decide, fun _ h => by simp [asked] at h⟩

end Sys2Proof.Tests
end

section
/-!
The wire commands as words and as bursts: every instruction is a gated request or a command run by itself; a wire command
run by itself is its bursts one after another; its payload decodes back to it, and a payload cut short is seen as such.
-/
namespace Sys2Proof.Machine

/-! ### A valid configuration (00_scope.md rule R7) -/

/-- The opcode parameters differ; stated both ways round, as the branches of a decoder test them. -/
theorem opcodes_pairwise {c : Cfg} (h : cfgValid c = true) : (opcodes c).Pairwise fun a b => a ≠ b ∧ b ≠ a := by
  have hn : (opcodes c).Nodup := by simp only [cfgValid, Bool.and_eq_true, decide_eq_true_eq] at h; tauto
  exact hn.imp fun hab => ⟨hab, hab.symm⟩

/-- The clauses of R7 on the masks. -/
theorem masks_valid {c : Cfg} (h : cfgValid c = true) :
    isSingleBit c.madctlMv = true ∧ isSingleBit c.madctlMx = true ∧ c.madctlMv ≠ c.madctlMx ∧
    c.madctlBase &&& c.madctlMv = 0 ∧ c.madctlBase &&& c.madctlMx = 0 := by
  simp only [cfgValid, Bool.and_eq_true, bne_iff_ne, beq_iff_eq] at h
  tauto

theorem isSingleBit_eq_twoPow {m : Byte} (h : isSingleBit m = true) : ∃ k : Fin 8, m = BitVec.twoPow 8 k := by
  revert m
  decide

theorem isSingleBit_ne_zero {m : Byte} (h : isSingleBit m = true) : m ≠ 0#8 := by
  simp only [isSingleBit, Bool.and_eq_true, bne_iff_ne] at h
  exact h.1

/-- Two different single bits have no bit in common. -/
theorem isSingleBit_and_eq_zero {a b : Byte} (ha : isSingleBit a = true) (hb : isSingleBit b = true) (hab : a ≠ b) :
    a &&& b = 0 := by
  obtain ⟨j, rfl⟩ := isSingleBit_eq_twoPow ha
  obtain ⟨k, rfl⟩ := isSingleBit_eq_twoPow hb
  have hjk : (j : Nat) ≠ k := fun h => hab (by rw [h])
  simp [BitVec.twoPow_and, hjk]

/-- The flags can be read back from their byte (R90). -/
theorem decodeMadctl_madctlByte {c : Cfg} (h : cfgValid c = true) (mv mx : Bool) :
    decodeMadctl c (madctlByte c mv mx) = .ok (.setMemoryAccessControl mv mx) := by
  obtain ⟨hmv, hmx, hne, hbv, hbx⟩ := masks_valid h
  have hvx := isSingleBit_and_eq_zero hmv hmx hne
  have hxv := isSingleBit_and_eq_zero hmx hmv hne.symm
  have hv : (madctlByte c mv mx &&& c.madctlMv != 0) = mv := by
    cases mv <;> cases mx <;>
      simp [madctlByte, BitVec.and_or_distrib_right, hbv, hxv, isSingleBit_ne_zero hmv]
  have hx : (madctlByte c mv mx &&& c.madctlMx != 0) = mx := by
    cases mv <;> cases mx <;>
      simp [madctlByte, BitVec.and_or_distrib_right, hbx, hvx, isSingleBit_ne_zero hmx]
  simp only [decodeMadctl, hv, hx, if_true]

/-! ### An invalid configuration -/

/-- Every request is gated by a set of phases (R96). -/
theorem exec_request {i : Instr} (h : i.isWire = false) :
    ∃ allowed operation, ∀ s, exec i s = runRequest allowed operation s := by
  cases i <;> cases h <;> exact ⟨_, _, fun _ => rfl⟩

/-- Every wire command runs by itself. -/
theorem exec_wire {i : Instr} (h : i.isWire = true) : ∃ operation, ∀ s, exec i s = runDirect operation s := by
  cases i <;> cases h <;> exact ⟨_, fun _ => rfl⟩

/-- An invalid configuration refuses every instruction (R7). -/
theorem exec_invalid {s : State} (h : cfgValid s.cfg = false) (i : Instr) :
    exec i s = .refused .invalidConfiguration := by
  cases hw : i.isWire with
  | false =>
    obtain ⟨allowed, operation, he⟩ := exec_request hw
    simp [he, runRequest, h]
  | true =>
    obtain ⟨operation, he⟩ := exec_wire hw
    simp [he, runDirect, h]

/-- An invalid configuration refuses every step (R7). -/
theorem step_invalid {s : State} (h : cfgValid s.cfg = false) : step s = .refused .invalidConfiguration := by
  simp [step, fetch, h]

/-- Settles O11: the step refuses before it takes anything up, an instruction where it is gated. -/
theorem invalidConfigurationIsRefused : Obligations.InvalidConfigurationIsRefused :=
  fun _ h => ⟨step_invalid h, exec_invalid h⟩

/-! ### Bytes and colours -/

@[simp] theorem join16_hi8_lo8 (v : U16) : join16 (hi8 v) (lo8 v) = v := by
  rw [join16, hi8, lo8, BitVec.extractLsb'_append_extractLsb'_eq_extractLsb' (by rfl), BitVec.extractLsb'_eq_self]

@[simp] theorem colorsOfBytes_colorBytes (colors : List Color) : colorsOfBytes (colorBytes colors) = some colors := by
  induction colors with
  | nil => rfl
  | cons col colors ih => simp [colorBytes, colorsOfBytes, ih]

@[simp] theorem length_colorBytes (colors : List Color) : (colorBytes colors).length = 2 * colors.length := by
  induction colors with
  | nil => rfl
  | cons col colors ih => simp [colorBytes, ih, Nat.mul_succ]

/-- Whole pixels of a pixel payload are the payload of those pixels. -/
theorem take_colorBytes (colors : List Color) (n : Nat) :
    (colorBytes colors).take (2 * n) = colorBytes (colors.take n) := by
  induction colors generalizing n with
  | nil => simp [colorBytes]
  | cons col colors ih =>
    cases n with
    | zero => rfl
    | succ n => simp [colorBytes, Nat.mul_succ, ih]

/-! ### Encoding a wire command -/

/-- A wire command has an encoding. -/
theorem encodeWire_of_isWire {i : Instr} (h : i.isWire = true) (c : Cfg) :
    ∃ opcode payload, encodeWire c i = some (opcode, payload) := by
  cases i <;> cases h <;> exact ⟨_, _, rfl⟩

theorem wireItems_eq {c : Cfg} {i : Instr} {opcode : Byte} {payload : List Byte}
    (h : encodeWire c i = some (opcode, payload)) :
    wireItems c i = .byte .command opcode :: payload.map (FlatItem.byte .data) := by
  simp [wireItems, h]

/-- The encoding of a well-formed wire command decodes to it (R88 to R91). -/
theorem decodePayload_encodeWire {c : Cfg} {i : Instr} {opcode : Byte} {payload : List Byte} (hc : cfgValid c = true)
    (hi : i.wellFormed c = true) (he : encodeWire c i = some (opcode, payload)) :
    decodePayload c opcode payload = .ok i := by
  have hd := opcodes_pairwise hc
  simp only [opcodes, List.pairwise_cons, List.forall_mem_cons] at hd
  cases i <;> cases he
  case setMemoryAccessControl mv mx => simp [decodePayload, hd, decodeMadctl_madctlByte hc]
  case memoryWrite colors =>
    cases colors with
    | nil => cases hi
    | cons col colors => simp [decodePayload, decodeMemoryWrite, hd]
  all_goals simp [decodePayload, hd, msbFirst]

/-- A memory write takes one colour or more (R88). -/
theorem shortestPayload_ramwr {c : Cfg} (hc : cfgValid c = true) : shortestPayload c c.opcRamwr = 2 := by
  have hd := opcodes_pairwise hc
  simp only [opcodes, List.pairwise_cons, List.forall_mem_cons] at hd
  simp [shortestPayload, hd]

/-- Every other command has one payload length (R88). -/
theorem shortestPayload_encodeWire {c : Cfg} {i : Instr} {opcode : Byte} {payload : List Byte}
    (hc : cfgValid c = true) (he : encodeWire c i = some (opcode, payload)) (hm : ∀ colors, i ≠ .memoryWrite colors) :
    opcode ≠ c.opcRamwr ∧ shortestPayload c opcode = payload.length := by
  have hd := opcodes_pairwise hc
  simp only [opcodes, List.pairwise_cons, List.forall_mem_cons] at hd
  cases i <;> cases he
  case memoryWrite colors => exact absurd rfl (hm colors)
  all_goals simp [shortestPayload, hd, msbFirst]

theorem mem_opcodes_of_encodeWire {c : Cfg} {i : Instr} {opcode : Byte} {payload : List Byte}
    (he : encodeWire c i = some (opcode, payload)) : opcode ∈ opcodes c := by
  cases i <;> cases he <;> simp [opcodes]

/-! ### Decoding one delimited command (R95) -/

/-- The bytes of a memory write stop short of its end before the first whole pixel, and inside any pixel. -/
theorem stopsShort_ramwr {c : Cfg} (hc : cfgValid c = true) (bytes : List Byte) :
    stopsShort c c.opcRamwr bytes = true ↔ bytes.length < 2 ∨ bytes.length % 2 = 1 := by
  simp [stopsShort, shortestPayload_ramwr hc, opcodes]

/-- The bytes of every other command stop short of its end where they are fewer than its payload. -/
theorem stopsShort_fixed {c : Cfg} {i : Instr} {opcode : Byte} {payload : List Byte} (hc : cfgValid c = true)
    (he : encodeWire c i = some (opcode, payload)) (hm : ∀ colors, i ≠ .memoryWrite colors) (bytes : List Byte) :
    stopsShort c opcode bytes = true ↔ bytes.length < payload.length := by
  obtain ⟨hne, hlen⟩ := shortestPayload_encodeWire hc he hm
  simp [stopsShort, mem_opcodes_of_encodeWire he, hne, hlen]

theorem stopsShort_encodeWire {c : Cfg} {i : Instr} {opcode : Byte} {payload : List Byte} (hc : cfgValid c = true)
    (hi : i.wellFormed c = true) (he : encodeWire c i = some (opcode, payload)) :
    stopsShort c opcode payload = false := by
  by_cases hm : ∃ colors, i = .memoryWrite colors
  · obtain ⟨colors, rfl⟩ := hm
    cases he
    have hpos : colors.length ≠ 0 := by simpa [Instr.wellFormed] using hi
    rw [← Bool.not_eq_true, stopsShort_ramwr hc, length_colorBytes]
    omega
  · rw [← Bool.not_eq_true, stopsShort_fixed hc he (not_exists.mp hm)]
    omega

theorem decodeDelimited_whole {c : Cfg} {i : Instr} {opcode : Byte} {payload : List Byte} (hc : cfgValid c = true)
    (hi : i.wellFormed c = true) (he : encodeWire c i = some (opcode, payload)) :
    decodeDelimited c (opcode, payload) = .ok (.whole i) := by
  simp [decodeDelimited, stopsShort_encodeWire hc hi he, decodePayload_encodeWire hc hi he, Except.map]

theorem decodeDelimited_truncated {c : Cfg} {opcode : Byte} {bytes : List Byte}
    (h : stopsShort c opcode bytes = true) :
    decodeDelimited c (opcode, bytes) = .ok (.truncated opcode bytes) := by
  simp [decodeDelimited, h]

/-- How the decoder sees a command of which only `n` payload bytes went out. -/
def SeenCut (i : Instr) (opcode : Byte) (payload : List Byte) (n : Nat) (cut : TraceCommand) : Prop :=
  cut = .truncated opcode (payload.take n) ∨
  ∃ colors, i = .memoryWrite colors ∧ 0 < n ∧ n = 2 * (n / 2) ∧ cut = .whole (.memoryWrite (colors.take (n / 2)))

/-- A memory write cut short: truncated, or, between two pixels, the memory write of the pixels that went out. -/
theorem decodeDelimited_cut_memoryWrite {c : Cfg} (hc : cfgValid c = true) (colors : List Color) {n : Nat}
    (hn : n < (colorBytes colors).length) :
    ∃ cut, decodeDelimited c (c.opcRamwr, (colorBytes colors).take n) = .ok cut ∧
      SeenCut (.memoryWrite colors) c.opcRamwr (colorBytes colors) n cut := by
  have hlen : ((colorBytes colors).take n).length = n := List.length_take_of_le hn.le
  by_cases hs : stopsShort c c.opcRamwr ((colorBytes colors).take n) = true
  · exact ⟨_, decodeDelimited_truncated hs, .inl rfl⟩
  · rw [stopsShort_ramwr hc, hlen] at hs
    rw [length_colorBytes] at hn
    obtain ⟨k, rfl⟩ : ∃ k, n = 2 * k := ⟨n / 2, by omega⟩
    have hwf : (Instr.memoryWrite (colors.take k)).wellFormed c = true := by
      have hk : k ≠ 0 := by omega
      have hcol : colors ≠ [] := List.ne_nil_of_length_pos (by omega)
      simp [Instr.wellFormed, hk, hcol]
    rw [take_colorBytes]
    refine ⟨_, decodeDelimited_whole hc hwf rfl, .inr ⟨colors, rfl, by omega, by omega, ?_⟩⟩
    rw [Nat.mul_div_cancel_left k two_pos]

/-- Any command cut short (R95). -/
theorem decodeDelimited_cut {c : Cfg} {i : Instr} {opcode : Byte} {payload : List Byte} {n : Nat}
    (hc : cfgValid c = true) (he : encodeWire c i = some (opcode, payload)) (hn : n < payload.length) :
    ∃ cut, decodeDelimited c (opcode, payload.take n) = .ok cut ∧ SeenCut i opcode payload n cut := by
  by_cases hm : ∃ colors, i = .memoryWrite colors
  · obtain ⟨colors, rfl⟩ := hm
    cases he
    exact decodeDelimited_cut_memoryWrite hc colors hn
  · have hs : stopsShort c opcode (payload.take n) = true := by
      rw [stopsShort_fixed hc he (not_exists.mp hm), List.length_take_of_le hn.le]
      exact hn
    exact ⟨_, decodeDelimited_truncated hs, .inl rfl⟩

/-! ### Delimiting a flattened trace (R95) -/

/-- An item with which the payload before it ends splits the trace. -/
theorem delimit_append (a : List FlatItem) {b : List FlatItem} (h : payloadAhead b = []) :
    delimit (a ++ b) = delimit a ++ delimit b := by
  induction a with
  | nil => rfl
  | cons e a ih =>
    cases e with
    | rst l => simpa using ih
    | dly ms => simpa using ih
    | byte level x => cases level <;> simp [ih, payloadAhead_append a h]

/-- An opcode byte and its payload at the end of a trace are one command. -/
theorem delimit_command_bytes (opcode : Byte) (payload : List Byte) :
    delimit (.byte .command opcode :: payload.map (FlatItem.byte .data)) = [(opcode, payload)] := by
  have hp := payloadAhead_bytes payload payloadAhead_nil
  have hd := delimit_bytes payload []
  rw [List.append_nil] at hp hd
  simp [hp, hd]

theorem payloadAhead_wireItems (c : Cfg) (commands : List Instr) :
    payloadAhead (commands.flatMap (wireItems c)) = [] := by
  induction commands with
  | nil => rfl
  | cons i commands ih =>
    cases he : encodeWire c i with
    | none => simpa [wireItems, he] using ih
    | some p => simp [wireItems, he]

/-- The tagged bytes of whole commands are delimited and decoded to them. -/
theorem decodeTrace_wireItems {c : Cfg} (hc : cfgValid c = true) {commands : List Instr}
    (hw : ∀ i ∈ commands, i.isWire = true ∧ i.wellFormed c = true) :
    decodeTrace c (commands.flatMap (wireItems c)) = .ok (commands.map .whole) := by
  induction commands with
  | nil => rfl
  | cons i commands ih =>
    obtain ⟨⟨hi, hwf⟩, hw⟩ := List.forall_mem_cons.mp hw
    obtain ⟨opcode, payload, he⟩ := encodeWire_of_isWire hi c
    have hrest : decodeCommands c (delimit (commands.flatMap (wireItems c))) = .ok (commands.map .whole) := ih hw
    rw [decodeTrace, List.flatMap_cons, delimit_append _ (payloadAhead_wireItems c commands), wireItems_eq he,
      delimit_command_bytes]
    simp [decodeCommands, decodeDelimited_whole hc hwf he, hrest]

/-- Whole commands followed by one of which only `n` payload bytes went out. -/
theorem decodeTrace_wireItems_cut {c : Cfg} (hc : cfgValid c = true) {commands : List Instr}
    (hw : ∀ i ∈ commands, i.isWire = true ∧ i.wellFormed c = true) {i : Instr} {opcode : Byte} {payload : List Byte}
    {n : Nat} (he : encodeWire c i = some (opcode, payload)) (hn : n < payload.length) :
    ∃ cut, decodeTrace c (commands.flatMap (wireItems c) ++ (wireItems c i).take (n + 1)) =
      .ok (commands.map .whole ++ [cut]) ∧ SeenCut i opcode payload n cut := by
  obtain ⟨cut, hcut, hseen⟩ := decodeDelimited_cut hc he hn
  have hwhole : decodeCommands c (delimit (commands.flatMap (wireItems c))) = .ok (commands.map .whole) :=
    decodeTrace_wireItems hc hw
  refine ⟨cut, ?_, hseen⟩
  rw [decodeTrace, wireItems_eq he, List.take_succ_cons, ← List.map_take, delimit_append _ (payloadAhead_command _ _),
    delimit_command_bytes, decodeCommands_append hwhole]
  simp [decodeCommands, hcut, Except.map]

/-! ### A wire command run by itself is its bursts (R87) -/

/-- The bursts of an opcode byte and a payload: an empty payload is no burst. -/
def wireBursts (opcode : Byte) : List Byte → List (Level × List Byte)
  | [] => [(.command, [opcode])]
  | b :: payload => [(.command, [opcode]), (.data, b :: payload)]

theorem wireEvents_eq {c : Cfg} {i : Instr} {opcode : Byte} {payload : List Byte}
    (h : encodeWire c i = some (opcode, payload)) : wireEvents c i = (wireBursts opcode payload).map completed := by
  cases payload <;> simp [wireEvents, h, wireBursts, completed, cmd, dat]

theorem length_wireBursts_le (opcode : Byte) (payload : List Byte) : (wireBursts opcode payload).length ≤ 2 := by
  cases payload <;> simp [wireBursts]

/-- The complete bursts of a command flatten to its tagged bytes (R11). -/
theorem flat_wireEvents {c : Cfg} {i : Instr} {opcode : Byte} {payload : List Byte}
    (h : encodeWire c i = some (opcode, payload)) :
    flat (wireEvents c i) = .byte .command opcode :: payload.map (FlatItem.byte .data) := by
  rw [wireEvents_eq h]
  cases payload <;> simp [wireBursts, completed, flat, flatEvent]

theorem flat_append (v w : List Event) : flat (v ++ w) = flat v ++ flat w := List.flatMap_append

/-- The meaning of a well-formed wire command is the bursts of its encoding. -/
theorem exec_eq_wireBursts {s : State} {i : Instr} {opcode : Byte} {payload : List Byte} (hc : cfgValid s.cfg = true)
    (hi : i.wellFormed s.cfg = true) (he : encodeWire s.cfg i = some (opcode, payload)) :
    exec i s = concludeDirect (runBursts (wireBursts opcode payload) s) := by
  have direct (operation : State → Flow) : runDirect operation s = concludeDirect (operation s) := if_pos hc
  cases i <;> cases he
  case sleepOut | displayOn => exact (direct _).trans (congrArg concludeDirect (sendCommand_eq _ s))
  case memoryWrite colors =>
    cases colors with
    | nil => cases hi
    | cons col colors => exact (direct _).trans (congrArg concludeDirect (commandWith_eq _ _ s))
  all_goals exact (direct _).trans (congrArg concludeDirect (commandWith_eq _ _ s))

/-- A wire command whose bursts complete adds them to the trace. -/
theorem exec_wire_clear {s : State} {i : Instr} {opcode : Byte} {payload : List Byte} (hc : cfgValid s.cfg = true)
    (hi : i.wellFormed s.cfg = true) (hv : s.env.clear 2 = true)
    (he : encodeWire s.cfg i = some (opcode, payload)) :
    ∃ t, exec i s = .next t ∧ t.trace = s.trace ++ wireEvents s.cfg i := by
  rw [exec_eq_wireBursts hc hi he, wireEvents_eq he,
    runBursts_clear (clear_mono hv (length_wireBursts_le opcode payload))]
  exact ⟨_, rfl, rfl⟩

/-- Settles O25: a wire command is the bursts of its encoding; a command byte or an `RST` event lets no payload through,
so delimiting splits there; and each delimited command decodes to itself, or to itself cut short. -/
theorem wireCommandsAddTheirEncodingToTheTrace : Obligations.WireCommandsAddTheirEncodingToTheTrace := by
  refine ⟨fun s i opcode payload hc hi hv he => ?_, ?_, fun c commands hc hw => ⟨decodeTrace_wireItems hc hw, ?_⟩⟩
  · obtain ⟨t, ht, htrace⟩ := exec_wire_clear hc hi hv he
    exact ⟨t, ht, by rw [htrace, flat_append, flat_wireEvents he]⟩
  · rintro a b e (⟨l, rfl⟩ | ⟨opcode, rfl⟩)
    · exact delimit_append a (payloadAhead_rst l b)
    · exact delimit_append a (payloadAhead_command opcode b)
  · exact fun i opcode payload n _ he hn => decodeTrace_wireItems_cut hc hw he hn

end Sys2Proof.Machine
end

section
/-!
The registers (10_state.md). What one instruction can leave of the state is said once: `exec_next` for every instruction
but `INIT`, `exec_init_next` for `INIT`, and `step_next` for the step that runs it; the laws of `XFAULT`, `PHASE`, `ROT`
and the straps are read off from these.
-/
namespace Sys2Proof.Machine

/-! ### Reset (R37) -/

/-- Settles O8: each register of the reset state is set to the value the rule gives. -/
theorem resetPutsEveryRegisterAtItsValue : Obligations.ResetPutsEveryRegisterAtItsValue :=
  ⟨rfl, fun _ => ⟨rfl, rfl, rfl, rfl, rfl, rfl, rfl, rfl, rfl⟩⟩

/-- The reset layout has no fixed rows, so its area is the whole panel (R24, R37). -/
theorem scrollOk_wholePanel (ph : U16) : scrollOk ph { top := 0, area := ph, bottom := 0, offset := 0 } = true := by
  by_cases h : ph = 0
  · simp [scrollOk, h]
  · have hpos : 0 < ph.toNat := Nat.pos_of_ne_zero fun h0 => h (BitVec.eq_of_toNat_eq h0)
    simp [scrollOk, hpos]

theorem inv_resetWith {c : Cfg} (h : cfgValid c = true) : (State.resetWith c).inv = true := by
  have hs : scrollOk (State.resetWith c).ph (State.resetWith c).scr = true := scrollOk_wholePanel c.ph
  rw [State.inv, hs]
  simp [State.resetWith, strapsOk, traceOk, h]

/-- Settles O57: after reset the straps are the configuration's, the layout is the whole panel and the trace is empty. -/
theorem resetMeetsTheInvariant : Obligations.ResetMeetsTheInvariant :=
  ⟨inv_resetWith (by decide), fun _ => inv_resetWith⟩

/-! ### Flows that stay inside a relation -/

/-- However a flow ends, the relation `R` holds between `s` and the state it ends in. -/
def Flow.Stays (R : State → State → Prop) (s : State) (f : Flow) : Prop := f.Ends (R s) (fun _ => R s) (R s)

/-- A flow that starts from a state reached from `s`. -/
theorem Flow.Stays.after {R : State → State → Prop} (trans : ∀ {s t u}, R s t → R t u → R s u) {s t : State} {f : Flow}
    (h : f.Stays R t) (ht : R s t) : f.Stays R s :=
  h.mono (fun _ => trans ht) (fun _ _ => trans ht) (fun _ => trans ht)

theorem Flow.Stays.andThen {R : State → State → Prop} (trans : ∀ {s t u}, R s t → R t u → R s u) {s : State} {f : Flow}
    {k : State → Flow} (h : f.Stays R s) (hk : ∀ t, (k t).Stays R t) : (f.andThen k).Stays R s :=
  Flow.Ends.andThen h fun t ht => Flow.Stays.after (R := R) trans (hk t) ht

/-! ### What the operations of every request but `INIT` do before they commit (R26) -/

/-- The states reached from `s` by sending bursts and pulling stream items: `XFAULT` notes whether one of the bursts sent
has faulted, and no other register but the D/C line changes. -/
def Progress (s t : State) : Prop :=
  ∃ sent d v stream pulled, t = { s with
    trace := s.trace ++ sent, xfault := s.xfault || sent.any Event.isFault, dcl := d, env := v,
    stream := stream, pulled := pulled }

theorem Progress.refl (s : State) : Progress s s := ⟨[], s.dcl, s.env, s.stream, s.pulled, by simp⟩

theorem Progress.trans {s t u : State} (h : Progress s t) (h' : Progress t u) : Progress s u := by
  obtain ⟨w, _, _, _, _, rfl⟩ := h
  obtain ⟨w', d, v, stream, pulled, rfl⟩ := h'
  exact ⟨w ++ w', d, v, stream, pulled, by simp [Bool.or_assoc]⟩

theorem pull_progress (n : Nat) (s : State) : Progress s (s.pull n) :=
  ⟨[], s.dcl, s.env, s.stream.drop n, s.pulled + n, by simp [State.pull]⟩

theorem burst_progresses (level : Level) (bytes : List Byte) (s : State) :
    (burst level bytes s).Stays Progress s := by
  obtain ⟨-, h⟩ | ⟨n, a, -, h⟩ | ⟨n, a, -, h⟩ := burst_cases level bytes s <;> rw [h]
  · exact ⟨[.burst level bytes .complete], level.line s.cfg, s.env.afterBurst, s.stream, s.pulled,
      by simp [State.sent, Event.isFault]⟩
  · exact ⟨[.burst level (bytes.take n) .faulted], level.line s.cfg, s.env.afterBurst, s.stream, s.pulled,
      by simp [State.cut, Event.isFault]⟩
  · exact ⟨[.burst level (bytes.take n) .stalled], level.line s.cfg, s.env.afterBurst, s.stream, s.pulled,
      by simp [State.cut, Event.isFault]⟩

theorem commandWith_progresses (opcode : Byte) (payload : List Byte) (s : State) :
    (commandWith opcode payload s).Stays Progress s :=
  (burst_progresses _ _ s).andThen .trans fun t => burst_progresses _ _ t

theorem setAddressWindow_progresses (win : AddressWindow) (s : State) : (setAddressWindow win s).Stays Progress s :=
  (commandWith_progresses _ _ s).andThen .trans fun t => commandWith_progresses _ _ t

theorem memWrite_progresses (win : AddressWindow) (colors : List Color) (s : State) :
    (memWrite win colors s).Stays Progress s :=
  (setAddressWindow_progresses win s).andThen .trans fun t => commandWith_progresses _ _ t

theorem writePixelsFromStream_progresses (n : Nat) (s : State) : (writePixelsFromStream n s).Stays Progress s := by
  unfold writePixelsFromStream
  dsimp only
  split
  · trivial
  · exact (burst_progresses _ _ _).after .trans (pull_progress _ s)

theorem memWriteFromStream_progresses (win : AddressWindow) (n : Nat) (s : State) :
    (memWriteFromStream win n s).Stays Progress s :=
  (setAddressWindow_progresses win s).andThen .trans fun t =>
    (burst_progresses _ _ t).andThen .trans (writePixelsFromStream_progresses n)

theorem drawItem_progresses (item : PixelItem) (s : State) : (drawItem item s).Stays Progress s := by
  unfold drawItem
  split
  · exact memWrite_progresses _ _ s
  · exact Progress.refl s

theorem drawItems_progresses (items : List PixelItem) (s : State) : (drawItems items s).Stays Progress s := by
  induction items generalizing s with
  | nil => trivial
  | cons item items ih =>
    unfold drawItems
    split
    · exact pull_progress 1 s
    · exact ((drawItem_progresses item (s.pull 1)).andThen .trans ih).after .trans (pull_progress 1 s)

theorem fillWindow_progresses (xs xe ys ye : U16) (color : Color) (s : State) :
    (fillWindow xs xe ys ye color s).Stays Progress s := by
  unfold fillWindow
  split
  · exact memWrite_progresses _ _ s
  · exact Progress.refl s

theorem drawImageRect_progresses (x y w h : U16) (s : State) : (drawImageRect x y w h s).Stays Progress s := by
  unfold drawImageRect
  split
  · exact Progress.refl s
  · split
    · exact memWriteFromStream_progresses _ _ s
    · exact Progress.refl s

/-! ### What they commit -/

/-- The register an instruction other than `INIT` sets once its bursts are complete (R168, R220, R221). -/
def commitOf : Instr → State → State
  | .setOrientation rotation, s => { s with rot := rotation }
  | .configureScroll top area bottom, s => { s with scr := { top := top, area := area, bottom := bottom, offset := 0 } }
  | .setOffset offset, s => { s with scr := { s.scr with offset := offset } }
  | _, s => s

@[simp] theorem commitOf_cfg (i : Instr) (s : State) : (commitOf i s).cfg = s.cfg := by cases i <;> rfl
@[simp] theorem commitOf_pw (i : Instr) (s : State) : (commitOf i s).pw = s.pw := by cases i <;> rfl
@[simp] theorem commitOf_ph (i : Instr) (s : State) : (commitOf i s).ph = s.ph := by cases i <;> rfl
@[simp] theorem commitOf_mir (i : Instr) (s : State) : (commitOf i s).mir = s.mir := by cases i <;> rfl
@[simp] theorem commitOf_phase (i : Instr) (s : State) : (commitOf i s).phase = s.phase := by cases i <;> rfl
@[simp] theorem commitOf_xfault (i : Instr) (s : State) : (commitOf i s).xfault = s.xfault := by cases i <;> rfl
@[simp] theorem commitOf_trace (i : Instr) (s : State) : (commitOf i s).trace = s.trace := by cases i <;> rfl
@[simp] theorem commitOf_responses (i : Instr) (s : State) : (commitOf i s).responses = s.responses := by cases i <;> rfl

/-- Only `SET_ORIENTATION` commits a rotation, its operand. -/
theorem commitOf_rot (i : Instr) (s : State) :
    (commitOf i s).rot = s.rot ∨ ∃ rotation, i = .setOrientation rotation ∧ (commitOf i s).rot = rotation := by
  cases i
  case setOrientation rotation => exact .inr ⟨rotation, rfl, rfl⟩
  all_goals exact .inl rfl

/-- A flow that makes progress and, where it succeeds, commits what the instruction `i` commits. -/
def Flow.Commits (i : Instr) (s : State) (f : Flow) : Prop :=
  f.Ends (fun t => ∃ u, Progress s u ∧ t = commitOf i u) (fun _ => Progress s) (Progress s)

/-- An instruction that commits nothing only has to make progress. -/
theorem Flow.Stays.commits {i : Instr} {s : State} {f : Flow} (h : f.Stays Progress s) (hi : commitOf i = id) :
    f.Commits i s :=
  h.mono (fun t ht => ⟨t, ht, by rw [hi, id]⟩) (fun _ _ => id) (fun _ => id)

/-- The commit of an instruction after what it sends. -/
theorem Flow.Stays.andThen_commit {i : Instr} {s : State} {f : Flow} (h : f.Stays Progress s) :
    (f.andThen fun t => .ok (commitOf i t)).Commits i s :=
  Flow.Ends.andThen h fun t ht => ⟨t, ht, rfl⟩

theorem orient_commits (rotation : BitVec 2) (s : State) :
    (orient rotation s).Commits (.setOrientation rotation) s :=
  (commandWith_progresses _ _ s).andThen_commit

theorem layoutScroll_commits (top area bottom : U16) (s : State) :
    (layoutScroll top area bottom s).Commits (.configureScroll top area bottom) s := by
  unfold layoutScroll
  split
  · exact (commandWith_progresses _ _ s).andThen_commit
  · exact Progress.refl s

theorem moveOffset_commits (offset : U16) (s : State) : (moveOffset offset s).Commits (.setOffset offset) s := by
  unfold moveOffset
  split
  · exact (commandWith_progresses _ _ s).andThen_commit
  · exact Progress.refl s

/-! ### What an instruction but `INIT` can leave -/

/-- The states an instruction other than `INIT` can leave: a request is answered, `Ok` with its commit or an error without
it, or waits for ever (R97, R316); a wire command run by itself records its result (log entry 4). -/
def Leaves (i : Instr) (s t : State) : Prop :=
  ∃ u, Progress s u ∧
    (t = respond .ok (commitOf i u) ∨ (∃ e, t = respond e u) ∨ t = { u with busy := true } ∨
      ∃ results, t = { u with directResults := results })

theorem runRequest_leaves {i : Instr} {allowed : Phase → Bool} {operation : State → Flow} {s t : State}
    (ho : (operation s).Commits i s) (h : runRequest allowed operation s = .next t) : Leaves i s t := by
  obtain ⟨-, ⟨-, rfl⟩ | ⟨-, ⟨u, hu, rfl⟩ | ⟨e, u, hu, rfl⟩ | ⟨u, hu, rfl⟩⟩⟩ := runRequest_next h
  · exact ⟨s, .refl s, .inr (.inl ⟨.notReady, rfl⟩)⟩
  all_goals rw [hu] at ho
  · obtain ⟨v, hv, rfl⟩ := ho
    exact ⟨v, hv, .inl rfl⟩
  · exact ⟨u, ho, .inr (.inl ⟨e, rfl⟩)⟩
  · exact ⟨u, ho, .inr (.inr (.inl rfl))⟩

theorem runDirect_leaves {i : Instr} {operation : State → Flow} {s t : State}
    (ho : (operation s).Stays Progress s) (h : runDirect operation s = .next t) : Leaves i s t := by
  obtain ⟨-, ⟨u, hu, rfl⟩ | ⟨e, u, hu, rfl⟩ | ⟨u, hu, rfl⟩⟩ := runDirect_next h <;> rw [hu] at ho
  · exact ⟨u, ho, .inr (.inr (.inr ⟨_, rfl⟩))⟩
  · exact ⟨u, ho, .inr (.inr (.inr ⟨_, rfl⟩))⟩
  · exact ⟨u, ho, .inr (.inr (.inl rfl))⟩

/-- Everything an instruction other than `INIT` can leave. -/
theorem exec_next {i : Instr} {s t : State} (hi : i ≠ .init) (h : exec i s = .next t) : Leaves i s t := by
  cases i with
  | init => exact absurd rfl hi
  | setOrientation rotation => exact runRequest_leaves (orient_commits rotation s) h
  | clear color => exact runRequest_leaves ((memWrite_progresses _ _ s).commits rfl) h
  | drawPixels => exact runRequest_leaves ((drawItems_progresses _ s).commits rfl) h
  | fillRect xs xe ys ye color => exact runRequest_leaves ((fillWindow_progresses xs xe ys ye color s).commits rfl) h
  | drawImage x y w h' => exact runRequest_leaves ((drawImageRect_progresses x y w h' s).commits rfl) h
  | configureScroll top area bottom => exact runRequest_leaves (layoutScroll_commits top area bottom s) h
  | setOffset offset => exact runRequest_leaves (moveOffset_commits offset s) h
  | sleepOut | displayOn => exact runDirect_leaves (burst_progresses _ _ s) h
  | memoryWrite colors =>
    cases colors with
    | nil => exact runDirect_leaves (operation := fun _ => .refuse .emptyPixelList) trivial h
    | cons col cols =>
      exact runDirect_leaves (operation := memoryWrite (col :: cols)) (commandWith_progresses _ _ s) h
  | setColorMode | setMemoryAccessControl mv mx | setAddressWindowColumns xs xe | setAddressWindowRows ys ye
  | setScrollArea top middle bottom | setScrollOffset offset => exact runDirect_leaves (commandWith_progresses _ _ s) h

theorem Leaves.trace_xfault {i : Instr} {s t : State} (h : Leaves i s t) :
    ∃ sent, t.trace = s.trace ++ sent ∧ t.xfault = (s.xfault || sent.any Event.isFault) := by
  obtain ⟨u, ⟨sent, _, _, _, _, rfl⟩, rfl | ⟨e, rfl⟩ | rfl | ⟨results, rfl⟩⟩ := h <;> exact ⟨sent, by simp⟩

theorem Leaves.phase {i : Instr} {s t : State} (h : Leaves i s t) : t.phase = s.phase := by
  obtain ⟨u, ⟨sent, _, _, _, _, rfl⟩, rfl | ⟨e, rfl⟩ | rfl | ⟨results, rfl⟩⟩ := h <;> simp

/-- Settles O33: only bursts extend the trace and only faulted ones set `XFAULT`; no commit and no answer touches either. -/
theorem xfaultRecordsFaultedBursts : Obligations.XfaultRecordsFaultedBursts :=
  fun _ _ _ hi h => (exec_next hi h).trace_xfault

/-! ### What `INIT` can leave (R240) -/

/-- The states the start-up sequence of `INIT` reaches: beside what a burst changes, the reset line. -/
def Starts (s t : State) : Prop :=
  ∃ w d x v l, t = { s with trace := s.trace ++ w, dcl := d, xfault := x, env := v, rstl := l }

theorem Starts.trans {s t u : State} (h : Starts s t) (h' : Starts t u) : Starts s u := by
  obtain ⟨w, _, _, _, _, rfl⟩ := h
  obtain ⟨w', d, x, v, l, rfl⟩ := h'
  exact ⟨w ++ w', d, x, v, l, by simp⟩

theorem Emits.starts {s t : State} (h : Emits s t) : Starts s t := by
  obtain ⟨w, d, x, v, rfl⟩ := h
  exact ⟨w, d, x, v, s.rstl, rfl⟩

theorem Flow.Transports.starts {s : State} {f : Flow} (h : f.Transports s) : f.Stays Starts s :=
  h.mono (fun _ => Emits.starts) (fun _ _ ⟨_, ht, _⟩ => ht.starts) (fun _ => Emits.starts)

theorem setRST_starts (l : BitVec 1) (s : State) : (setRST l s).Stays Starts s :=
  ⟨[.rst l], s.dcl, s.xfault, s.env, l, rfl⟩

theorem delay_starts (ms : Nat) (s : State) : (delay ms s).Stays Starts s := by
  unfold delay
  dsimp only
  split <;> exact ⟨[.dly ms], s.dcl, s.xfault, _, s.rstl, rfl⟩

theorem sampleInitAck_starts (s : State) : (sampleInitAck s).Stays Starts s := by
  unfold sampleInitAck
  dsimp only
  split <;> exact ⟨[], s.dcl, s.xfault, { s.env with acks := s.env.acks.tail }, s.rstl, by simp⟩

theorem resetSequence_starts (s : State) : (resetSequence s).Stays Starts s :=
  (((setRST_starts 0 s).andThen .trans fun t => delay_starts _ t).andThen .trans (setRST_starts 1)).andThen .trans
    fun t => delay_starts _ t

theorem startUp_starts (s : State) : (startUp s).Stays Starts s :=
  (((((resetSequence_starts s).andThen .trans fun t => (burst_transports _ _ t).starts).andThen .trans
    fun t => (commandWith_transports _ _ t).starts).andThen .trans sampleInitAck_starts).andThen .trans
    fun t => (setMemoryAccessControl_transports _ _ t).starts).andThen .trans fun t => (burst_transports _ _ t).starts

/-- The registers `INIT` sets once its start-up sequence has succeeded (R240). -/
def initCommit (s : State) : State :=
  { s with scr := { top := 0, area := s.ph, bottom := 0, offset := 0 }, xfault := false, phase := .ready }

/-- How `INIT` ends: its commit, `InitError` in `DEAD`, or no end. -/
theorem initialise_ends (s : State) :
    (initialise s).Ends
      (fun t => ∃ u, Starts s u ∧ t = initCommit u)
      (fun e t => e = .initError ∧ ∃ u, Starts s u ∧ t = { u with phase := .dead })
      (Starts s) := by
  have h := startUp_starts s
  unfold initialise
  cases hf : startUp s with
  | refuse r => trivial
  | ok u => rw [hf] at h; exact ⟨u, h, rfl⟩
  | raise e u => rw [hf] at h; exact ⟨rfl, u, h, rfl⟩
  | stuck u => rw [hf] at h; exact h

/-- Everything `INIT` can leave: `NotReady` in `DEAD`, or one of its ends. -/
theorem exec_init_next {s t : State} (h : exec .init s = .next t) :
    t = respond .notReady s ∨
    s.phase ≠ .dead ∧ ∃ u, Starts s u ∧
      (t = respond .ok (initCommit u) ∨ t = respond .initError { u with phase := .dead } ∨
       t = { u with busy := true }) := by
  have he := initialise_ends s
  obtain ⟨-, ⟨-, rfl⟩ | ⟨hp, h⟩⟩ := runRequest_next h
  · exact .inl rfl
  have hd : s.phase ≠ .dead := by rintro hd; rw [hd] at hp; cases hp
  refine .inr ⟨hd, ?_⟩
  obtain ⟨u, hu, rfl⟩ | ⟨e, u, hu, rfl⟩ | ⟨u, hu, rfl⟩ := h <;> rw [hu] at he
  · obtain ⟨v, hv, rfl⟩ := he
    exact ⟨v, hv, .inl rfl⟩
  · obtain ⟨rfl, v, hv, rfl⟩ := he
    exact ⟨v, hv, .inr (.inl rfl)⟩
  · exact ⟨u, he, .inr (.inr rfl)⟩

/-- The phases `INIT` goes to, each with its response (R25). -/
theorem exec_init_phase {s t : State} (h : exec .init s = .next t) (hne : t.phase ≠ s.phase) :
    s.phase ≠ .dead ∧
    ((t.phase = .ready ∧ t.responses = s.responses ++ [responseWord .ok false .ready]) ∨
     (t.phase = .dead ∧ t.responses = s.responses ++ [responseWord .initError t.xfault .dead])) := by
  obtain rfl | ⟨hd, u, ⟨w, d, x, v, l, rfl⟩, rfl | rfl | rfl⟩ := exec_init_next h
  · exact absurd rfl hne
  · exact ⟨hd, .inl ⟨rfl, rfl⟩⟩
  · exact ⟨hd, .inr ⟨rfl, rfl⟩⟩
  · exact absurd rfl hne

/-! ### What any instruction keeps (R21, R22) -/

/-- No instruction changes the configuration or a strap, and only `SET_ORIENTATION` answered `Ok` changes `ROT`. -/
theorem exec_keeps_straps {i : Instr} {s t : State} (h : exec i s = .next t) :
    t.cfg = s.cfg ∧ t.pw = s.pw ∧ t.ph = s.ph ∧ t.mir = s.mir ∧
    (t.rot ≠ s.rot → ∃ rotation, i = .setOrientation rotation ∧ t.rot = rotation ∧
      t.responses = s.responses ++ [responseWord .ok t.xfault t.phase]) := by
  by_cases hi : i = .init
  · subst hi
    obtain rfl | ⟨-, u, ⟨w, d, x, v, l, rfl⟩, rfl | rfl | rfl⟩ := exec_init_next h <;> simp [initCommit]
  · obtain ⟨u, hu, ht⟩ := exec_next hi h
    have hrot := commitOf_rot i u
    obtain ⟨sent, d, v, stream, pulled, rfl⟩ := hu
    obtain rfl | ⟨e, rfl⟩ | rfl | ⟨results, rfl⟩ := ht
    · obtain hr | ⟨rotation, rfl, hr⟩ := hrot <;> simp [hr]
    all_goals simp

/-! ### The step -/

/-- Only a wire command is decoded from bytes (R88). -/
theorem isWire_of_decodeWire {c : Cfg} {bytes : List Byte} {i : Instr} (h : decodeWire c bytes = .ok i) :
    i.isWire = true := by
  cases bytes with
  | nil => cases h
  | cons opcode payload =>
    simp only [decodeWire, decodePayload, decodeMadctl, decodeMemoryWrite] at h
    repeat' split at h
    all_goals cases h
    all_goals rfl

/-- What a step that takes something up gives. -/
def Fetched.outcome : Fetched → Host.Outcome State Fault Refusal
  | .run i s => exec i s
  | .answer o => o

theorem step_eq_outcome (s : State) : step s = (fetch s).outcome := by
  unfold step
  cases fetch s <;> rfl

/-- A waiting block stays as it is (R316). -/
theorem waiting_next {s t : State} (h : (waiting s).outcome = .next t) : t = s := by
  unfold waiting at h
  split at h <;> cases h
  all_goals rfl

/-- Bytes at the direct port run the wire command they decode to (log entry 4). -/
theorem takeDirect_next {bytes : List Byte} {s t : State} (h : (takeDirect bytes s).outcome = .next t) :
    ∃ i, i.isWire = true ∧ exec i { s with direct := none } = .next t := by
  unfold takeDirect at h
  split at h
  next i hi => exact ⟨i, isWire_of_decodeWire hi, h⟩
  next => cases h

/-- The request presented first is accepted, and rejected by its operation code or run (R86, R96). -/
def TakesRequest (s t : State) : Prop :=
  ∃ d stream rest, s.inbox = .request d stream :: rest ∧
    (t = respond .illegalRequest (accept d stream rest s) ∨
     ∃ i, decodeRequest d = .ok i ∧ exec i (accept d stream rest s) = .next t)

theorem acceptRequest_next {d : Descriptor} {stream : StreamPort} {rest : List HostInput} {s t : State}
    (hin : s.inbox = .request d stream :: rest) (h : (acceptRequest d stream rest s).outcome = .next t) :
    TakesRequest s t := by
  refine ⟨d, stream, rest, hin, ?_⟩
  unfold acceptRequest at h
  split at h
  next i hi => exact .inr ⟨i, hi, h⟩
  next => cases h; exact .inl rfl

/-- An idle block waits, is reset, or accepts a request (R96, R300, R301). -/
theorem takeInput_next {s t : State} (h : (takeInput s).outcome = .next t) :
    t = s ∨ (∃ rest, s.inbox = .blockReset :: rest ∧ t = blockReset rest s) ∨ TakesRequest s t := by
  unfold takeInput at h
  split at h
  next => cases h; exact .inl rfl
  next rest hin => cases h; exact .inr (.inl ⟨rest, hin, rfl⟩)
  next d stream rest hin => exact .inr (.inr (acceptRequest_next hin h))

/-- Everything a step can do that gives a next state: nothing (R27, R301), a block reset (R300), a request, or a wire
command at the direct port (log entry 4). -/
theorem step_next {s t : State} (h : step s = .next t) :
    t = s ∨ (∃ rest, s.inbox = .blockReset :: rest ∧ t = blockReset rest s) ∨ TakesRequest s t ∨
    ∃ i, i.isWire = true ∧ exec i { s with direct := none } = .next t := by
  rw [step_eq_outcome, fetch] at h
  split at h
  next =>
    split at h
    next => exact .inl (waiting_next h)
    next =>
      split at h
      next => exact .inr (.inr (.inr (takeDirect_next h)))
      next => exact (takeInput_next h).imp id (.imp id .inl)
  next => cases h

/-- Settles O58: of the four things a step can do, only a block reset and `INIT` touch `PHASE`. -/
theorem phaseChangesOnlyByInitAndReset : Obligations.PhaseChangesOnlyByInitAndReset := by
  intro s t h hne
  obtain rfl | ⟨rest, hin, rfl⟩ | ⟨d, stream, rest, hin, rfl | ⟨i, hd, he⟩⟩ | ⟨i, hw, he⟩ := step_next h
  · exact absurd rfl hne
  · exact .inl ⟨rest, hin, rfl⟩
  · exact absurd rfl hne
  · obtain rfl : i = .init := by
      by_contra hi
      exact hne (exec_next hi he).phase
    exact .inr ⟨d, stream, rest, hin, hd, exec_init_phase (s := accept d stream rest s) he hne⟩
  · have hi : i ≠ .init := by rintro rfl; cases hw
    exact absurd (exec_next hi he).phase hne

/-- Settles O59: an instruction keeps the straps, and a wire command at the direct port is no `SET_ORIENTATION`. -/
theorem strapsAndRotationAreKept : Obligations.StrapsAndRotationAreKept := by
  intro s t h hreset
  obtain rfl | ⟨rest, hin, -⟩ | ⟨d, stream, rest, hin, rfl | ⟨i, hd, he⟩⟩ | ⟨i, hw, he⟩ := step_next h
  · exact ⟨rfl, rfl, rfl, rfl, fun hne => absurd rfl hne⟩
  · exact absurd hin (hreset rest)
  · exact ⟨rfl, rfl, rfl, rfl, fun hne => absurd rfl hne⟩
  · obtain ⟨hcfg, hpw, hph, hmir, hrot⟩ := exec_keeps_straps he
    refine ⟨hcfg, hpw, hph, hmir, fun hne => ?_⟩
    obtain ⟨rotation, rfl, hr, hresponses⟩ := hrot hne
    exact ⟨d, stream, rest, rotation, hin, hd, hr, hresponses⟩
  · obtain ⟨hcfg, hpw, hph, hmir, hrot⟩ := exec_keeps_straps he
    refine ⟨hcfg, hpw, hph, hmir, fun hne => ?_⟩
    obtain ⟨rotation, rfl, -, -⟩ := hrot hne
    cases hw

end Sys2Proof.Machine
end

section
/-!
The request latch and the D/C line (10_state.md rules R28, R30). An operation is blind to them when it gives the same flow,
up to what stands in them, whatever stood in them before; sequencing keeps this, and so it goes up from a burst to `exec`.
-/
namespace Sys2Proof.Machine

/-- A state with `REQ` and `DCL` forgotten. -/
def State.unlatched (s : State) : State := { s with req := 0, dcl := 0 }

/-- A flow with `REQ` and `DCL` forgotten in the state it ends in. -/
def Flow.unlatched : Flow → Flow
  | .ok s => .ok s.unlatched
  | .raise e s => .raise e s.unlatched
  | .stuck s => .stuck s.unlatched
  | .refuse r => .refuse r

/-- An operation that reads neither `REQ` nor `DCL`. -/
def Blind (f : State → Flow) : Prop := ∀ s, (f s).unlatched = (f s.unlatched).unlatched

/-! ### Ways to put blind operations together -/

/-- After a blind operation is put after a flow, only what the flow left outside `REQ` and `DCL` matters. -/
theorem andThen_unlatched {k : State → Flow} (hk : Blind k) (f : Flow) :
    (f.andThen k).unlatched = (f.unlatched.andThen k).unlatched := by
  cases f with
  | ok s => exact hk s
  | raise e s => rfl
  | stuck s => rfl
  | refuse r => rfl

theorem Blind.andThen {f k : State → Flow} (hf : Blind f) (hk : Blind k) : Blind fun s => (f s).andThen k := by
  intro s
  rw [andThen_unlatched hk, hf s, ← andThen_unlatched hk]

theorem onRaise_unlatched {k : Code → State → Flow} (hk : ∀ e, Blind (k e)) (f : Flow) :
    (f.onRaise k).unlatched = (f.unlatched.onRaise k).unlatched := by
  cases f with
  | ok s => rfl
  | raise e s => exact hk e s
  | stuck s => rfl
  | refuse r => rfl

theorem Blind.onRaise {f : State → Flow} {k : Code → State → Flow} (hf : Blind f) (hk : ∀ e, Blind (k e)) :
    Blind fun s => (f s).onRaise k := by
  intro s
  rw [onRaise_unlatched hk, hf s, ← onRaise_unlatched hk]

/-- A choice by a condition that does not speak of `REQ` and `DCL`. -/
theorem Blind.ite {p : State → Prop} [DecidablePred p] (hp : ∀ s, p s ↔ p s.unlatched) {f g : State → Flow}
    (hf : Blind f) (hg : Blind g) : Blind fun s => if p s then f s else g s := by
  intro s
  by_cases h : p s
  · simpa only [h, (hp s).mp h, if_true] using hf s
  · simpa only [h, mt (hp s).mpr h, if_false] using hg s

theorem ok_blind : Blind .ok := fun _ => rfl

theorem raise_blind (e : Code) : Blind (.raise e) := fun _ => rfl

/-! ### The operations -/

theorem burst_blind (level : Level) (bytes : List Byte) : Blind (burst level bytes) := by
  intro s
  have hv : s.unlatched.env.verdict = s.env.verdict := rfl
  unfold burst
  rw [hv]
  cases s.env.verdict <;> rfl

theorem commandWith_blind (opcode : Byte) (payload : List Byte) : Blind (commandWith opcode payload) :=
  (burst_blind _ _).andThen (burst_blind _ _)

theorem sleepOut_blind : Blind sleepOut := fun s => burst_blind _ _ s

theorem displayOn_blind : Blind displayOn := fun s => burst_blind _ _ s

theorem setColorMode_blind : Blind setColorMode := fun s => commandWith_blind _ _ s

theorem sendMadctl_blind (mv mx : Bool) : Blind (sendMadctl mv mx) := fun s => commandWith_blind _ _ s

theorem setWindowColumns_blind (xStart xEnd : U16) : Blind (setWindowColumns xStart xEnd) :=
  fun s => commandWith_blind _ _ s

theorem setWindowRows_blind (yStart yEnd : U16) : Blind (setWindowRows yStart yEnd) :=
  fun s => commandWith_blind _ _ s

theorem memoryWrite_blind (colors : List Color) : Blind (memoryWrite colors) := fun s => commandWith_blind _ _ s

theorem setScrollArea_blind (top middle bottom : U16) : Blind (setScrollArea top middle bottom) :=
  fun s => commandWith_blind _ _ s

theorem setScrollOffset_blind (offset : U16) : Blind (setScrollOffset offset) := fun s => commandWith_blind _ _ s

theorem setAddressWindow_blind (win : AddressWindow) : Blind (setAddressWindow win) :=
  (setWindowColumns_blind _ _).andThen (setWindowRows_blind _ _)

theorem memWrite_blind (win : AddressWindow) (colors : List Color) : Blind (memWrite win colors) :=
  (setAddressWindow_blind win).andThen (memoryWrite_blind colors)

/-- A blind operation after some stream items have been pulled. -/
theorem Blind.pull {f : State → Flow} (hf : Blind f) (n : Nat) : Blind fun s => f (s.pull n) :=
  fun s => hf (s.pull n)

theorem writePixelsFromStream_blind (n : Nat) : Blind (writePixelsFromStream n) :=
  Blind.ite (fun _ => Iff.rfl) (fun _ => rfl) fun s => (burst_blind _ _).pull _ s

theorem memWriteFromStream_blind (win : AddressWindow) (n : Nat) : Blind (memWriteFromStream win n) :=
  (setAddressWindow_blind win).andThen
    (Blind.andThen (fun s => burst_blind _ _ s) (writePixelsFromStream_blind n))

theorem drawItem_blind (item : PixelItem) : Blind (drawItem item) :=
  Blind.ite (fun _ => Iff.rfl) (fun s => memWrite_blind _ _ s) ok_blind

theorem drawItems_blind (items : List PixelItem) : Blind (drawItems items) := by
  induction items with
  | nil => exact fun _ => rfl
  | cons item items ih =>
    exact Blind.ite (fun _ => Iff.rfl) (ok_blind.pull 1) (((drawItem_blind item).pull 1).andThen ih)

theorem clearScreen_blind (color : Color) : Blind (clearScreen color) := fun s => memWrite_blind _ _ s

theorem drawStream_blind : Blind drawStream := fun s => drawItems_blind _ s

theorem fillWindow_blind (xs xe ys ye : U16) (color : Color) : Blind (fillWindow xs xe ys ye color) :=
  Blind.ite (fun _ => Iff.rfl) (fun s => memWrite_blind _ _ s) (raise_blind .outOfBounds)

theorem drawImageRect_blind (x y w h : U16) : Blind (drawImageRect x y w h) :=
  Blind.ite (fun _ => Iff.rfl) ok_blind
    (Blind.ite (fun _ => Iff.rfl) (fun s => memWriteFromStream_blind _ _ s) (raise_blind .outOfBounds))

theorem orient_blind (rotation : BitVec 2) : Blind (orient rotation) :=
  Blind.andThen (fun s => commandWith_blind _ _ s) fun _ => rfl

theorem layoutScroll_blind (top area bottom : U16) : Blind (layoutScroll top area bottom) :=
  Blind.ite (fun _ => Iff.rfl) ((setScrollArea_blind top area bottom).andThen fun _ => rfl)
    (raise_blind .invalidScrollLayout)

theorem moveOffset_blind (offset : U16) : Blind (moveOffset offset) :=
  Blind.ite (fun _ => Iff.rfl) ((setScrollOffset_blind offset).andThen fun _ => rfl) (raise_blind .outOfBounds)

theorem delay_blind (ms : Nat) : Blind (delay ms) :=
  Blind.ite (fun _ => Iff.rfl) (fun _ => rfl) fun _ => rfl

theorem sampleInitAck_blind : Blind sampleInitAck :=
  Blind.ite (fun _ => Iff.rfl) (fun _ => rfl) fun _ => rfl

theorem setRST_blind (l : BitVec 1) : Blind (setRST l) := fun _ => rfl

theorem resetSequence_blind : Blind resetSequence :=
  have low : Blind fun s => delay s.cfg.tRstLowMs s := fun s => delay_blind _ s
  have settle : Blind fun s => delay s.cfg.tRstSettleMs s := fun s => delay_blind _ s
  (((setRST_blind 0).andThen low).andThen (setRST_blind 1)).andThen settle

theorem startUp_blind : Blind startUp :=
  have orientation : Blind fun s => setMemoryAccessControl s.rot s.mir s := fun s => sendMadctl_blind _ _ s
  ((((resetSequence_blind.andThen sleepOut_blind).andThen setColorMode_blind).andThen sampleInitAck_blind).andThen
    orientation).andThen displayOn_blind

theorem initialise_blind : Blind initialise :=
  (startUp_blind.onRaise fun _ _ => rfl).andThen fun _ => rfl

/-! ### The instructions -/

/-- The outcome of an instruction with `REQ` and `DCL` forgotten. -/
def outcomeUnlatched : Host.Outcome State Fault Refusal → Host.Outcome State Fault Refusal := mapNext State.unlatched

theorem conclude_unlatched (f : Flow) : outcomeUnlatched (conclude f) = outcomeUnlatched (conclude f.unlatched) := by
  cases f <;> rfl

theorem concludeDirect_unlatched (f : Flow) :
    outcomeUnlatched (concludeDirect f) = outcomeUnlatched (concludeDirect f.unlatched) := by
  cases f <;> rfl

/-- A meaning that reads neither `REQ` nor `DCL`. -/
def BlindMeaning (m : State → Host.Outcome State Fault Refusal) : Prop :=
  ∀ s, outcomeUnlatched (m s) = outcomeUnlatched (m s.unlatched)

theorem runRequest_blind {operation : State → Flow} (ho : Blind operation) (allowed : Phase → Bool) :
    BlindMeaning (runRequest allowed operation) := by
  intro s
  have hconclude : outcomeUnlatched (conclude (operation s)) = outcomeUnlatched (conclude (operation s.unlatched)) := by
    rw [conclude_unlatched, ho s, ← conclude_unlatched]
  have hcfg : s.unlatched.cfg = s.cfg := rfl
  have hphase : s.unlatched.phase = s.phase := rfl
  unfold runRequest
  rw [hcfg, hphase]
  split
  · split
    · exact hconclude
    · rfl
  · rfl

theorem runDirect_blind {operation : State → Flow} (ho : Blind operation) : BlindMeaning (runDirect operation) := by
  intro s
  have hconclude : outcomeUnlatched (concludeDirect (operation s)) =
      outcomeUnlatched (concludeDirect (operation s.unlatched)) := by
    rw [concludeDirect_unlatched, ho s, ← concludeDirect_unlatched]
  have hcfg : s.unlatched.cfg = s.cfg := rfl
  unfold runDirect
  rw [hcfg]
  split
  · exact hconclude
  · rfl

theorem exec_blind (i : Instr) : BlindMeaning (exec i) := by
  cases i with
  | init => exact runRequest_blind initialise_blind _
  | setOrientation rotation => exact runRequest_blind (orient_blind rotation) _
  | clear color => exact runRequest_blind (clearScreen_blind color) _
  | drawPixels => exact runRequest_blind drawStream_blind _
  | fillRect xs xe ys ye color => exact runRequest_blind (fillWindow_blind xs xe ys ye color) _
  | drawImage x y w h => exact runRequest_blind (drawImageRect_blind x y w h) _
  | configureScroll top area bottom => exact runRequest_blind (layoutScroll_blind top area bottom) _
  | setOffset offset => exact runRequest_blind (moveOffset_blind offset) _
  | sleepOut => exact runDirect_blind sleepOut_blind
  | setColorMode => exact runDirect_blind setColorMode_blind
  | setMemoryAccessControl mv mx => exact runDirect_blind (sendMadctl_blind mv mx)
  | setAddressWindowColumns xStart xEnd => exact runDirect_blind (setWindowColumns_blind xStart xEnd)
  | setAddressWindowRows yStart yEnd => exact runDirect_blind (setWindowRows_blind yStart yEnd)
  | memoryWrite colors =>
    exact runDirect_blind (Blind.ite (fun _ => Iff.rfl) (fun _ => rfl) (memoryWrite_blind colors))
  | setScrollArea top middle bottom => exact runDirect_blind (setScrollArea_blind top middle bottom)
  | setScrollOffset offset => exact runDirect_blind (setScrollOffset_blind offset)
  | displayOn => exact runDirect_blind displayOn_blind

/-- Settles O40: the two states are the same once `REQ` and `DCL` are forgotten. -/
theorem latchAndDataCommandLineAreNeverRead : Obligations.LatchAndDataCommandLineAreNeverRead := by
  intro s i d l
  exact (exec_blind i { s with req := d, dcl := l }).trans (exec_blind i s).symm

end Sys2Proof.Machine
end

section
/-!
Streams and the growth of the trace (20_memory.md rules R54, R55, R60): how a byte stream becomes pixels on the wire, what
every instruction only adds to, and what the requests that pull from a stream do when it suffices and when it runs dry.
-/
namespace Sys2Proof.Machine

/-! ### Pixels in a byte stream (20_memory.md rule R54) -/

@[simp] theorem hi8_join16 (h l : Byte) : hi8 (join16 h l) = h := BitVec.extractLsb'_append_eq_left

@[simp] theorem lo8_join16 (h l : Byte) : lo8 (join16 h l) = l := BitVec.extractLsb'_append_eq_right

/-- Two bytes make a pixel, a last one alone makes none. -/
theorem length_imageColors (stream : List Byte) : (imageColors stream).length = stream.length / 2 := by
  induction stream using imageColors.induct with
  | case1 lo hi rest ih => simp only [imageColors, List.length_cons, ih]; omega
  | case2 b => simp [imageColors]
  | case3 => rfl

theorem getElem?_imageColors {stream : List Byte} {i : Nat} {lo hi : Byte} (hlo : stream[2 * i]? = some lo)
    (hhi : stream[2 * i + 1]? = some hi) : (imageColors stream)[i]? = some (join16 hi lo) := by
  induction stream using imageColors.induct generalizing i with
  | case1 lo' hi' rest ih =>
    cases i with
    | zero => simp_all [imageColors]
    | succ i => exact ih hlo hhi
  | case2 b => simp at hhi
  | case3 => simp at hlo

/-- A pixel is on the wire most significant byte first (R52). -/
theorem getElem?_colorBytes {colors : List Color} {i : Nat} {col : Color} (h : colors[i]? = some col) :
    (colorBytes colors)[2 * i]? = some (hi8 col) ∧ (colorBytes colors)[2 * i + 1]? = some (lo8 col) := by
  induction colors generalizing i with
  | nil => simp at h
  | cons col' colors ih =>
    cases i with
    | zero => simp_all [colorBytes]
    | succ i => exact ih h

/-- Settles O50: pixel `i` is made of the stream's bytes `2i` and `2i + 1`, and the wire carries its high byte first. -/
theorem imageStreamBytesAreSwappedInPairs : Obligations.ImageStreamBytesAreSwappedInPairs := by
  intro n stream hn
  have hlen : (imageColors stream).length = n := by rw [length_imageColors, hn, Nat.mul_div_cancel_left n two_pos]
  refine ⟨hlen, by rw [length_colorBytes, hlen], fun i lo hi hlo hhi => ?_⟩
  have hcolor := getElem?_imageColors hlo hhi
  obtain ⟨hfirst, hsecond⟩ := getElem?_colorBytes hcolor
  exact ⟨hcolor, by rw [hfirst, hi8_join16], by rw [hsecond, lo8_join16]⟩

/-! ### What grows (R60) -/

@[simp] theorem commitOf_inbox (i : Instr) (s : State) : (commitOf i s).inbox = s.inbox := by cases i <;> rfl

/-- Every instruction adds to the trace and to the responses, and leaves the host's further inputs waiting. -/
theorem exec_grows {i : Instr} {s t : State} (h : exec i s = .next t) :
    s.trace <+: t.trace ∧ s.responses <+: t.responses ∧ t.inbox = s.inbox := by
  by_cases hi : i = .init
  · subst hi
    obtain rfl | ⟨-, u, ⟨w, d, x, v, l, rfl⟩, rfl | rfl | rfl⟩ := exec_init_next h <;> simp [initCommit]
  · obtain ⟨u, ⟨sent, d, v, stream, pulled, rfl⟩, rfl | ⟨e, rfl⟩ | rfl | ⟨results, rfl⟩⟩ := exec_next hi h <;> simp

/-- Settles O60: of the four things a step can do, waiting changes nothing and a block reset is left out; a request is the
first input taken. -/
theorem traceOnlyGrows : Obligations.TraceOnlyGrows := by
  intro s t h hreset
  obtain rfl | ⟨rest, hin, -⟩ | ⟨d, stream, rest, hin, rfl | ⟨i, -, he⟩⟩ | ⟨i, -, he⟩ := step_next h
  · exact ⟨⟨[], List.append_nil _⟩, ⟨[], List.append_nil _⟩, .inl rfl⟩
  · exact absurd hin (hreset rest)
  · exact ⟨⟨[], List.append_nil _⟩, ⟨_, rfl⟩, .inr ⟨_, hin⟩⟩
  · obtain ⟨htrace, hresponses, hinbox⟩ := exec_grows he
    exact ⟨htrace, hresponses, .inr ⟨_, by rw [hinbox]; exact hin⟩⟩
  · obtain ⟨htrace, hresponses, hinbox⟩ := exec_grows he
    exact ⟨htrace, hresponses, .inl hinbox⟩

/-! ### Streams that run dry (R55) -/

theorem serves_iff {s : State} : s.serves = true ↔ cfgValid s.cfg = true ∧ s.phase = .ready := by
  simp [State.serves]

/-- A request that executes only in `READY`, in a state that serves it. -/
theorem runRequest_serves {operation : State → Flow} {s : State} (h : s.serves = true) :
    runRequest readyOnly operation s = conclude (operation s) := by
  obtain ⟨hc, hp⟩ := serves_iff.mp h
  exact runRequest_allowed hc (by rw [hp]; rfl)

/-- The state a complete window and the opcode byte of its write leave: what is left of `MemWrite` is the pixel burst
(R140). -/
def State.beforePixels (win : AddressWindow) (s : State) : State :=
  { s with
    trace := s.trace ++ [cmd s.cfg.opcCaset, dat (msbFirst win.xStart ++ msbFirst win.xEnd),
      cmd s.cfg.opcRaset, dat (msbFirst win.yStart ++ msbFirst win.yEnd), cmd s.cfg.opcRamwr],
    dcl := s.cfg.dcCmd, env := s.env.after 5 }

/-- `MemWrite` from the byte stream under five successes. -/
theorem memWriteFromStream_clear {win : AddressWindow} {n : Nat} {s : State} (h : s.env.clear 5 = true) :
    memWriteFromStream win n s = writePixelsFromStream n (s.beforePixels win) := by
  obtain ⟨h4, h1⟩ := (clear_add (m := 4) (n := 1)).mp h
  rw [memWriteFromStream, setAddressWindow_clear h4, andThen_ok, memoryWriteFromStream, sendCommand_clear h1]
  simp [after_after, State.beforePixels]

theorem rectOK_iff {rot : BitVec 2} {pw ph x y w h : Nat} :
    rectOK rot pw ph x y w h = true ↔
      1 ≤ w ∧ 1 ≤ h ∧ x + w ≤ logicalWidth rot pw ph ∧ y + h ≤ logicalHeight rot pw ph := by
  simp [rectOK, and_assoc]

/-- A `DRAW_IMAGE` inside the bounds is one window and one write (R194). -/
theorem drawImageRect_inside {s : State} {x y w h : U16}
    (hr : rectOK s.rot s.pw.toNat s.ph.toNat x.toNat y.toNat w.toNat h.toNat = true) :
    drawImageRect x y w h s =
      memWriteFromStream (s.translate x.toNat y.toNat w.toNat h.toNat) (w.toNat * h.toNat) s := by
  have hne : ¬ (w.toNat = 0 ∨ h.toNat = 0) := by
    obtain ⟨hw, hh, -, -⟩ := rectOK_iff.mp hr
    omega
  simp [drawImageRect, hne, hr]

/-- A pixel burst that would complete needs every byte of its image (R55). -/
theorem writePixelsFromStream_exhausted {n : Nat} {s : State} (hv : s.env.verdict = .ok)
    (hlen : s.stream.byteItems.length < 2 * n) : writePixelsFromStream n s = .refuse .streamExhausted := by
  refine if_pos ?_
  rw [hv, length_colorBytes, length_imageColors, List.length_take]
  simp only [BurstVerdict.reach]
  omega

/-- A pixel burst that completes pulls the bytes of its image and no more (R55, R119). -/
theorem writePixelsFromStream_clear {n : Nat} {s : State} (hv : s.env.verdict = .ok)
    (hlen : 2 * n ≤ s.stream.byteItems.length) :
    writePixelsFromStream n s =
      .ok ((s.pull (2 * n)).sent .data (colorBytes (imageColors (s.stream.byteItems.take (2 * n))))) := by
  have henough : ¬ (colorBytes (imageColors (s.stream.byteItems.take (2 * n)))).length < 2 * n := by
    rw [length_colorBytes, length_imageColors, List.length_take]
    omega
  simp only [writePixelsFromStream, hv, BurstVerdict.reach, BurstVerdict.pulls, if_neg henough]
  exact burst_ok hv

/-- An item under six successes takes at most six of the transport's verdicts (R192). -/
theorem drawItem_clear {item : PixelItem} {n : Nat} {s : State} (h : s.env.clear (6 + n) = true) :
    ∃ t, drawItem item s = .ok t ∧ t.env.clear n = true := by
  obtain ⟨h6, hn⟩ := clear_add.mp h
  unfold drawItem
  split
  · exact ⟨_, memWrite_clear h6, hn⟩
  · exact ⟨s, rfl, clear_mono h (by omega)⟩

/-- Items none of which ends the request use up the stream. -/
theorem drawItems_exhausted {items : List PixelItem} {s : State} (hi : items.all (fun t => !Item.isEnd t) = true)
    (hv : s.env.clear (6 * items.length) = true) : drawItems items s = .refuse .streamExhausted := by
  induction items generalizing s with
  | nil => rfl
  | cons item items ih =>
    obtain ⟨hend, hi⟩ : Item.isEnd item = false ∧ items.all (fun t => !Item.isEnd t) = true := by simpa using hi
    rw [List.length_cons, Nat.mul_succ, Nat.add_comm] at hv
    obtain ⟨t, ht, hclear⟩ := drawItem_clear (item := item) (s := s.pull 1) hv
    rw [drawItems, hend, if_neg Bool.false_ne_true, ht, andThen_ok, ih hi hclear]

/-- Settles O34: the image's last burst lacks a byte, and the pixel items run out with none of them the end. -/
theorem exhaustedStreamsAreRefused : Obligations.ExhaustedStreamsAreRefused := by
  refine ⟨fun s x y w h hs hv hr hlen => ?_, fun s hs hv hi => ?_⟩
  · obtain ⟨h5, h1⟩ := (clear_add (m := 5) (n := 1)).mp hv
    have hrefuse : drawImageRect x y w h s = .refuse .streamExhausted := by
      rw [drawImageRect_inside hr, memWriteFromStream_clear h5]
      exact writePixelsFromStream_exhausted (clear_verdict h1) hlen
    exact (runRequest_serves hs).trans (congrArg conclude hrefuse)
  · exact (runRequest_serves hs).trans (congrArg conclude (drawItems_exhausted hi hv))

end Sys2Proof.Machine
end

section
/-!
The pixel space as the observer of the trace sees it (20_memory.md rules R50, R56; log entry 10). A complete window and its
write are one `storeWindow` of the observer's memory, every other complete command leaves that memory alone, and the
windows the requests send are not inverted and have one pixel for each colour sent.
-/
namespace Sys2Proof.Machine

/-! ### What the observer makes of a command (log entry 10) -/

theorem pixelSpace_append_command (c : Cfg) (w : List Event) (opcode : Byte) :
    pixelSpace c (w ++ [cmd opcode]) = pixelSpace c w := by
  simp [pixelSpace, observe, Observer.event, cmd]

/-- A complete command with a payload. -/
theorem observe_append_commandWith (c : Cfg) (w : List Event) (opcode : Byte) (bytes : List Byte) :
    observe c (w ++ [cmd opcode, dat bytes]) =
      { Observer.payload c opcode bytes { observe c w with awaiting := some opcode } with awaiting := none } := by
  simp [observe, Observer.event, cmd, dat]

theorem payload_caset (c : Cfg) (o : Observer) (xs xe : U16) :
    o.payload c c.opcCaset (msbFirst xs ++ msbFirst xe) = { o with columns := some (xs, xe) } := by
  simp [Observer.payload, msbFirst]

theorem payload_raset {c : Cfg} (hc : cfgValid c = true) (o : Observer) (ys ye : U16) :
    o.payload c c.opcRaset (msbFirst ys ++ msbFirst ye) = { o with rows := some (ys, ye) } := by
  have hd := opcodes_pairwise hc
  simp only [opcodes, List.pairwise_cons, List.forall_mem_cons] at hd
  simp [Observer.payload, msbFirst, hd]

/-- The colours of a memory write go to the window last set (R136). -/
theorem payload_ramwr {c : Cfg} (hc : cfgValid c = true) {o : Observer} {win : AddressWindow}
    (hx : o.columns = some (win.xStart, win.xEnd)) (hy : o.rows = some (win.yStart, win.yEnd)) (colors : List Color) :
    o.payload c c.opcRamwr (colorBytes colors) = { o with memory := storeWindow win colors o.memory } := by
  have hd := opcodes_pairwise hc
  simp only [opcodes, List.pairwise_cons, List.forall_mem_cons] at hd
  simp [Observer.payload, hd, hx, hy, payloadColors]

/-- The payload of every command but a memory write leaves the pixel space as it was. -/
theorem payload_memory {c : Cfg} (hc : cfgValid c = true) {i : Instr} {opcode : Byte} {payload : List Byte}
    (he : encodeWire c i = some (opcode, payload)) (hm : ∀ colors, i ≠ .memoryWrite colors) (o : Observer) :
    (o.payload c opcode payload).memory = o.memory := by
  have hd := opcodes_pairwise hc
  simp only [opcodes, List.pairwise_cons, List.forall_mem_cons] at hd
  cases i <;> cases he
  case setAddressWindowColumns xs xe => rw [payload_caset]
  case setAddressWindowRows ys ye => rw [payload_raset hc]
  case memoryWrite colors => exact absurd rfl (hm colors)
  all_goals simp [Observer.payload, hd]

/-- A complete memory write after the observer has seen its window. -/
theorem pixelSpace_append_memoryWrite {c : Cfg} (hc : cfgValid c = true) {w : List Event} {win : AddressWindow}
    (hx : (observe c w).columns = some (win.xStart, win.xEnd)) (hy : (observe c w).rows = some (win.yStart, win.yEnd))
    (colors : List Color) :
    pixelSpace c (w ++ [cmd c.opcRamwr, dat (colorBytes colors)]) = storeWindow win colors (pixelSpace c w) := by
  rw [pixelSpace, observe_append_commandWith]
  exact congrArg Observer.memory (payload_ramwr (o := { observe c w with awaiting := some c.opcRamwr }) hc hx hy colors)

/-- A complete window and its write (R140). -/
theorem pixelSpace_append_storeEvents {c : Cfg} (hc : cfgValid c = true) (w : List Event) (win : AddressWindow)
    (colors : List Color) :
    pixelSpace c (w ++ storeEvents c win (colorBytes colors)) = storeWindow win colors (pixelSpace c w) := by
  have hsplit : w ++ storeEvents c win (colorBytes colors) =
      ((w ++ [cmd c.opcCaset, dat (msbFirst win.xStart ++ msbFirst win.xEnd)]) ++
        [cmd c.opcRaset, dat (msbFirst win.yStart ++ msbFirst win.yEnd)]) ++
        [cmd c.opcRamwr, dat (colorBytes colors)] := by simp [storeEvents]
  have hcolumns := observe_append_commandWith c w c.opcCaset (msbFirst win.xStart ++ msbFirst win.xEnd)
  rw [payload_caset] at hcolumns
  have hrows := observe_append_commandWith c (w ++ [cmd c.opcCaset, dat (msbFirst win.xStart ++ msbFirst win.xEnd)])
    c.opcRaset (msbFirst win.yStart ++ msbFirst win.yEnd)
  rw [payload_raset hc, hcolumns] at hrows
  rw [hsplit, pixelSpace_append_memoryWrite (win := win) hc (by rw [hrows]) (by rw [hrows]), pixelSpace, hrows]
  rfl

/-! ### What a write into a window stores (R50, R136) -/

theorem pixels_pos (win : AddressWindow) : 0 < win.pixels := Nat.mul_pos (Nat.succ_pos _) (Nat.succ_pos _)

/-- One colour per pixel of a window, all the same (R193). -/
theorem read_storeWindow_replicate {win : AddressWindow} {n : Nat} (hi : win.inverted = false) (hn : n = win.pixels)
    (col : Color) (m : Memory) (a : Nat) :
    Memory.read (storeWindow win (List.replicate n col) m) a =
      if a ∈ windowAddresses win then some col else Memory.read m a := by
  obtain ⟨k, rfl⟩ : ∃ k, n = k + 1 := Nat.exists_eq_add_one.mpr (hn ▸ pixels_pos win)
  have hall : (List.replicate k col).all (· == col) = true := by simp
  rw [List.replicate_succ, storeWindow, hi, if_neg Bool.false_ne_true, List.length_cons, List.length_replicate,
    if_pos hn, if_pos hall, Memory.read_foldl_write]

/-- One colour per pixel of a window, whatever they are, leaves every other address alone. -/
theorem read_storeWindow_outside {win : AddressWindow} {colors : List Color} (hi : win.inverted = false)
    (hn : colors.length = win.pixels) (m : Memory) {a : Nat} (ha : a ∉ windowAddresses win) :
    Memory.read (storeWindow win colors m) a = Memory.read m a := by
  cases colors with
  | nil => exact absurd hn (pixels_pos win).ne
  | cons col rest =>
    rw [storeWindow, hi, if_neg Bool.false_ne_true, if_pos hn]
    split
    · rw [Memory.read_foldl_write, if_neg ha]
    · exact Memory.read_foldl_forget m _ ha

/-- A write into an inverted window leaves nothing known (log entry 10). -/
theorem storeWindow_inverted {win : AddressWindow} (hi : win.inverted = true) (colors : List Color) (m : Memory) :
    storeWindow win colors m = [] := by
  cases colors <;> simp [storeWindow, hi]

/-! ### The windows the requests send (R33, R164) -/

/-- A window of four bounds that fit their words is not inverted and covers its rectangle. -/
theorem windowOf_covers {xs xe ys ye w h : Nat} (hx : xe < 65536) (hy : ye < 65536) (hw : xs + w = xe + 1)
    (hh : ys + h = ye + 1) (hw1 : 1 ≤ w) (hh1 : 1 ≤ h) :
    (windowOf xs xe ys ye).inverted = false ∧ (windowOf xs xe ys ye).pixels = w * h := by
  have hxs : xs < 65536 := by omega
  have hys : ys < 65536 := by omega
  have hwidth : xe - xs + 1 = w := by omega
  have hheight : ye - ys + 1 = h := by omega
  have hxle : xs ≤ xe := by omega
  have hyle : ys ≤ ye := by omega
  simp [windowOf, AddressWindow.inverted, AddressWindow.pixels, Nat.mod_eq_of_lt, hx, hy, hxs, hys, hwidth, hheight,
    hxle, hyle]

/-- The rows of the mapper's table by the parity of the rotation, on which the logical extent depends (R23, R164). -/
theorem mapperRow_parity (sense : RotSense) (rot : BitVec 2) :
    (rot.getLsbD 0 = false ∧ (mapperRow sense rot = 0 ∨ mapperRow sense rot = 2)) ∨
    (rot.getLsbD 0 = true ∧ (mapperRow sense rot = 1 ∨ mapperRow sense rot = 3)) := by
  cases sense <;> revert rot <;> decide

/-- The window of a rectangle inside the bounds is not inverted and has its pixels (R164, R167). -/
theorem translate_covers {s : State} {x y w h : Nat} (hr : rectOK s.rot s.pw.toNat s.ph.toNat x y w h = true) :
    (s.translate x y w h).inverted = false ∧ (s.translate x y w h).pixels = w * h := by
  have hpw := s.pw.isLt
  have hph := s.ph.isLt
  obtain ⟨hw, hh, hx, hy⟩ := rectOK_iff.mp hr
  unfold State.translate translateRect
  obtain ⟨hrot, hrow⟩ | ⟨hrot, hrow⟩ := mapperRow_parity s.cfg.rotSense s.rot
  · rw [logicalWidth, hrot, if_neg Bool.false_ne_true] at hx
    rw [logicalHeight, hrot, if_neg Bool.false_ne_true] at hy
    obtain hrow | hrow := hrow <;> rw [hrow] <;> apply windowOf_covers <;> omega
  · rw [logicalWidth, hrot, if_pos rfl] at hx
    rw [logicalHeight, hrot, if_pos rfl] at hy
    rw [Nat.mul_comm w h]
    obtain hrow | hrow := hrow <;> rw [hrow] <;> apply windowOf_covers <;> omega

/-- A window inside the bounds is the rectangle it covers inside the bounds (R162). -/
theorem rectOK_of_winOK {rot : BitVec 2} {pw ph xs xe ys ye : Nat} (h : winOK rot pw ph xs xe ys ye = true) :
    rectOK rot pw ph xs ys (xe - xs + 1) (ye - ys + 1) = true := by
  rw [rectOK_iff]
  simp only [winOK, Bool.and_eq_true, decide_eq_true_eq] at h
  omega

/-- A position inside the bounds is a one-pixel rectangle inside the bounds (R192). -/
theorem rectOK_of_positionInside {rot : BitVec 2} {pw ph : Nat} {x y : Int} (h : positionInside rot pw ph x y = true) :
    rectOK rot pw ph x.toNat y.toNat 1 1 = true := by
  rw [rectOK_iff]
  simp only [positionInside, Bool.and_eq_true, decide_eq_true_eq] at h
  omega

/-- The full window of a panel that is not empty (R7, R191). -/
theorem fullWindow_covers {s : State} (hc : cfgValid s.cfg = true) (hs : strapsOk s = true) :
    s.fullWindow.inverted = false ∧ s.fullWindow.pixels = s.pw.toNat * s.ph.toNat := by
  have hpos : 0 < s.cfg.pw.toNat * s.cfg.ph.toNat := by
    simp only [cfgValid, Bool.and_eq_true, decide_eq_true_eq] at hc
    tauto
  obtain ⟨hpw, hph⟩ : s.pw = s.cfg.pw ∧ s.ph = s.cfg.ph := by
    simp only [strapsOk, Bool.and_eq_true, beq_iff_eq] at hs
    tauto
  rw [← hpw, ← hph] at hpos
  have hw := Nat.pos_of_mul_pos_right hpos
  have hh := Nat.pos_of_mul_pos_left hpos
  have hpwlt := s.pw.isLt
  have hphlt := s.ph.isLt
  apply windowOf_covers <;> omega

/-! ### The drawing requests store in their windows -/

/-- A drawing request that succeeds and has sent one window and its write. -/
theorem runRequest_stores {operation : State → Flow} {s u : State} {win : AddressWindow} {colors : List Color}
    (hs : s.serves = true) (ho : operation s = .ok u) (hcfg : u.cfg = s.cfg)
    (htrace : u.trace = s.trace ++ storeEvents s.cfg win (colorBytes colors)) :
    ∃ t, runRequest readyOnly operation s = .next t ∧
      pixelSpace t.cfg t.trace = storeWindow win colors (pixelSpace s.cfg s.trace) := by
  refine ⟨respond .ok u, by rw [runRequest_serves hs, ho, conclude_ok], ?_⟩
  rw [respond_cfg, respond_trace, hcfg, htrace]
  exact pixelSpace_append_storeEvents (serves_iff.mp hs).1 _ _ _

/-- A `FILL_RECT` inside the bounds is one window and one write (R193). -/
theorem fillWindow_inside {s : State} {xs xe ys ye : U16} (color : Color)
    (h : winOK s.rot s.pw.toNat s.ph.toNat xs.toNat xe.toNat ys.toNat ye.toNat = true) :
    fillWindow xs xe ys ye color s =
      memWrite (s.translate xs.toNat ys.toNat (xe.toNat - xs.toNat + 1) (ye.toNat - ys.toNat + 1))
        (List.replicate ((xe.toNat - xs.toNat + 1) * (ye.toNat - ys.toNat + 1)) color) s := if_pos h

/-- Settles O54: both requests send one window, not inverted, and one copy of the colour for each of its pixels. -/
theorem fillsStoreTheirWindowAndNothingElse : Obligations.FillsStoreTheirWindowAndNothingElse := by
  refine ⟨fun s xs xe ys ye color hs hv hw => ?_, fun s color hs hstraps hv => ?_⟩
  · obtain ⟨hi, hn⟩ := translate_covers (rectOK_of_winOK hw)
    obtain ⟨t, ht, hp⟩ := runRequest_stores hs ((fillWindow_inside color hw).trans (memWrite_clear hv)) rfl rfl
    exact ⟨t, ht, fun a => by rw [hp, read_storeWindow_replicate hi hn.symm]⟩
  · obtain ⟨hi, hn⟩ := fullWindow_covers (serves_iff.mp hs).1 hstraps
    obtain ⟨t, ht, hp⟩ := runRequest_stores (operation := clearScreen color) hs (memWrite_clear hv) rfl rfl
    exact ⟨t, ht, fun a => by rw [hp, read_storeWindow_replicate hi hn.symm]⟩

/-! ### Instructions that store nothing -/

/-- The pixel space as the observer sees it is the same in both states. -/
def SamePixels (s t : State) : Prop := t.cfg = s.cfg ∧ pixelSpace t.cfg t.trace = pixelSpace s.cfg s.trace

theorem SamePixels.refl (s : State) : SamePixels s s := ⟨rfl, rfl⟩

/-- A request whose operation leaves the pixel space alone. -/
theorem runRequest_samePixels {allowed : Phase → Bool} {operation : State → Flow} {s t : State}
    (ho : cfgValid s.cfg = true → (operation s).Stays SamePixels s) (h : runRequest allowed operation s = .next t) :
    SamePixels s t := by
  obtain ⟨hc, ⟨-, rfl⟩ | ⟨-, ⟨u, hu, rfl⟩ | ⟨e, u, hu, rfl⟩ | ⟨u, hu, rfl⟩⟩⟩ := runRequest_next h
  · exact .refl s
  all_goals
    have hsame := ho hc
    rw [hu] at hsame
    exact hsame

/-- A wire command whose operation leaves the pixel space alone. -/
theorem runDirect_samePixels {operation : State → Flow} {s t : State}
    (ho : cfgValid s.cfg = true → (operation s).Stays SamePixels s) (h : runDirect operation s = .next t) :
    SamePixels s t := by
  obtain ⟨hc, ⟨u, hu, rfl⟩ | ⟨e, u, hu, rfl⟩ | ⟨u, hu, rfl⟩⟩ := runDirect_next h
  all_goals
    have hsame := ho hc
    rw [hu] at hsame
    exact hsame

theorem sendCommand_samePixels (opcode : Byte) {s : State} (hv : s.env.clear 2 = true) :
    (sendCommand opcode s).Stays SamePixels s := by
  rw [sendCommand_clear (clear_mono hv one_le_two)]
  exact ⟨rfl, pixelSpace_append_command s.cfg s.trace opcode⟩

/-- The bursts of every command with a payload but a memory write. -/
theorem commandWith_samePixels {i : Instr} {opcode : Byte} {payload : List Byte} {s : State}
    (hv : s.env.clear 2 = true) (he : encodeWire s.cfg i = some (opcode, payload))
    (hm : ∀ colors, i ≠ .memoryWrite colors) (hc : cfgValid s.cfg = true) :
    (commandWith opcode payload s).Stays SamePixels s := by
  rw [commandWith_clear hv]
  refine ⟨rfl, ?_⟩
  rw [pixelSpace, observe_append_commandWith]
  exact payload_memory hc he hm _

theorem orient_samePixels (rotation : BitVec 2) {s : State} (hv : s.env.clear 2 = true) (hc : cfgValid s.cfg = true) :
    (orient rotation s).Stays SamePixels s :=
  Flow.Ends.andThen
    (commandWith_samePixels (i := .setMemoryAccessControl (flagMV rotation) (flagMX rotation s.mir)) hv rfl nofun hc)
    fun _ h => h

theorem layoutScroll_samePixels (top area bottom : U16) {s : State} (hv : s.env.clear 2 = true)
    (hc : cfgValid s.cfg = true) : (layoutScroll top area bottom s).Stays SamePixels s := by
  unfold layoutScroll
  split
  · exact Flow.Ends.andThen (commandWith_samePixels (i := .setScrollArea top area bottom) hv rfl nofun hc) fun _ h => h
  · exact .refl s

theorem moveOffset_samePixels (offset : U16) {s : State} (hv : s.env.clear 2 = true) (hc : cfgValid s.cfg = true) :
    (moveOffset offset s).Stays SamePixels s := by
  unfold moveOffset
  split
  · exact Flow.Ends.andThen (commandWith_samePixels (i := .setScrollOffset offset) hv rfl nofun hc) fun _ h => h
  · exact .refl s

/-- Every instruction that writes no pixels. -/
theorem exec_samePixels {s t : State} {i : Instr} (hv : s.env.clear 2 = true)
    (hi : (∃ rotation, i = .setOrientation rotation) ∨ isScroll i = true ∨
      (i.isWire = true ∧ ∀ colors, i ≠ .memoryWrite colors)) (h : exec i s = .next t) : SamePixels s t := by
  cases i with
  | init | clear color | drawPixels | fillRect xs xe ys ye color | drawImage x y w h' | memoryWrite colors =>
    simp [isScroll, Instr.isWire] at hi
  | setOrientation rotation => exact runRequest_samePixels (orient_samePixels rotation hv) h
  | configureScroll top area bottom => exact runRequest_samePixels (layoutScroll_samePixels top area bottom hv) h
  | setOffset offset => exact runRequest_samePixels (moveOffset_samePixels offset hv) h
  | sleepOut | displayOn => exact runDirect_samePixels (fun _ => sendCommand_samePixels _ hv) h
  | setColorMode => exact runDirect_samePixels (commandWith_samePixels (i := .setColorMode) hv rfl nofun) h
  | setMemoryAccessControl mv mx =>
    exact runDirect_samePixels (commandWith_samePixels (i := .setMemoryAccessControl mv mx) hv rfl nofun) h
  | setAddressWindowColumns xs xe =>
    exact runDirect_samePixels (commandWith_samePixels (i := .setAddressWindowColumns xs xe) hv rfl nofun) h
  | setAddressWindowRows ys ye =>
    exact runDirect_samePixels (commandWith_samePixels (i := .setAddressWindowRows ys ye) hv rfl nofun) h
  | setScrollArea top middle bottom =>
    exact runDirect_samePixels (commandWith_samePixels (i := .setScrollArea top middle bottom) hv rfl nofun) h
  | setScrollOffset offset =>
    exact runDirect_samePixels (commandWith_samePixels (i := .setScrollOffset offset) hv rfl nofun) h

/-! ### The other instructions that store -/

/-- `DRAW_IMAGE` inside the bounds with enough bytes (R194). -/
theorem drawImageRect_clear {s : State} {x y w h : U16} (hv : s.env.clear 6 = true)
    (hr : rectOK s.rot s.pw.toNat s.ph.toNat x.toNat y.toNat w.toNat h.toNat = true)
    (hlen : 2 * (w.toNat * h.toNat) ≤ s.stream.byteItems.length) :
    ∃ u, drawImageRect x y w h s = .ok u ∧ u.cfg = s.cfg ∧
      u.trace = s.trace ++ storeEvents s.cfg (s.translate x.toNat y.toNat w.toNat h.toNat)
        (colorBytes (imageColors (s.stream.byteItems.take (2 * (w.toNat * h.toNat))))) := by
  obtain ⟨h5, h1⟩ := (clear_add (m := 5) (n := 1)).mp hv
  rw [drawImageRect_inside hr, memWriteFromStream_clear h5,
    writePixelsFromStream_clear (s := s.beforePixels _) (clear_verdict h1) hlen]
  exact ⟨_, rfl, rfl, by simp [State.sent, State.beforePixels, storeEvents, dat]⟩

/-- An item inside the bounds is one window and one write (R192). -/
theorem drawItem_inside {s : State} {item : PixelItem}
    (hp : positionInside s.rot s.pw.toNat s.ph.toNat (Item.x item) (Item.y item) = true) :
    drawItem item s = memWrite (s.translate (Item.x item).toNat (Item.y item).toNat 1 1) [Item.color item] s := if_pos hp

/-- `DRAW_PIXELS` of one item inside the bounds (R192). -/
theorem drawStream_one {s : State} {item last : PixelItem} (hv : s.env.clear 6 = true)
    (hs : s.stream = .pixels [item, last]) (hitem : Item.isEnd item = false) (hlast : Item.isEnd last = true)
    (hp : positionInside s.rot s.pw.toNat s.ph.toNat (Item.x item) (Item.y item) = true) :
    ∃ u, drawStream s = .ok u ∧ u.cfg = s.cfg ∧
      u.trace = s.trace ++ storeEvents s.cfg (s.translate (Item.x item).toNat (Item.y item).toNat 1 1)
        (colorBytes [Item.color item]) := by
  have hdraw := (drawItem_inside (s := s.pull 1) hp).trans (memWrite_clear (by exact hv))
  rw [drawStream, hs, StreamPort.pixelItems, drawItems, hitem, if_neg Bool.false_ne_true, hdraw, andThen_ok, drawItems,
    if_pos hlast]
  exact ⟨_, rfl, rfl, rfl⟩

/-- A memory write by itself into the window last set (R136). -/
theorem execMemoryWrite_stores {s : State} {colors : List Color} {win : AddressWindow} (hc : cfgValid s.cfg = true)
    (hv : s.env.clear 2 = true) (hne : colors ≠ [])
    (hx : (observe s.cfg s.trace).columns = some (win.xStart, win.xEnd))
    (hy : (observe s.cfg s.trace).rows = some (win.yStart, win.yEnd)) :
    ∃ t, exec (.memoryWrite colors) s = .next t ∧
      pixelSpace t.cfg t.trace = storeWindow win colors (pixelSpace s.cfg s.trace) := by
  have hwf : (Instr.memoryWrite colors).wellFormed s.cfg = true := by simpa [Instr.wellFormed] using hne
  obtain ⟨t, ht, htrace⟩ := exec_wire_clear hc hwf hv rfl
  obtain ⟨hcfg, -⟩ := exec_keeps_straps ht
  refine ⟨t, ht, ?_⟩
  rw [hcfg, htrace]
  cases colors with
  | nil => exact absurd rfl hne
  | cons col cols => exact pixelSpace_append_memoryWrite hc hx hy (col :: cols)

/-- Settles O55: `DRAW_IMAGE`, a one-item `DRAW_PIXELS` and a memory write are one write into their window; the other
instructions send no memory write. -/
theorem otherInstructionsStoreOnlyInTheirWindow : Obligations.OtherInstructionsStoreOnlyInTheirWindow := by
  refine ⟨?_, ?_, ?_, fun s t i hv hi h a => by rw [(exec_samePixels hv hi h).2]⟩
  · intro s x y w h bytes hs hv hr hstream hlen
    obtain ⟨hi, hn⟩ := translate_covers hr
    obtain ⟨u, hu, hcfg, htrace⟩ := drawImageRect_clear hv hr (by rw [hstream]; exact hlen)
    obtain ⟨t, ht, hp⟩ := runRequest_stores hs hu hcfg htrace
    refine ⟨t, ht, fun a ha => ?_⟩
    rw [hp, read_storeWindow_outside hi ?_ _ ha]
    rw [length_imageColors, hstream, StreamPort.byteItems, List.length_take_of_le hlen, hn,
      Nat.mul_div_cancel_left _ two_pos]
  · intro s item last hs hv hstream hitem hlast hp
    obtain ⟨hi, hn⟩ := translate_covers (rectOK_of_positionInside hp)
    obtain ⟨u, hu, hcfg, htrace⟩ := drawStream_one hv hstream hitem hlast hp
    obtain ⟨t, ht, hp⟩ := runRequest_stores hs hu hcfg htrace
    exact ⟨t, ht, fun a => by rw [hp, ← List.replicate_one, read_storeWindow_replicate hi hn.symm]⟩
  · intro s colors win hc hv hne hn hx hy
    obtain ⟨t, ht, hp⟩ := execMemoryWrite_stores hc hv hne hx hy
    refine ⟨t, ht, fun hi a ha => ?_, fun hi a => ?_⟩
    · rw [hp, read_storeWindow_outside hi hn _ ha]
    · rw [hp, storeWindow_inverted hi, Memory.read]

end Sys2Proof.Machine
end

section
/-!
Words (30_encoding.md rules R81 to R91): the fields of a descriptor, what the request decoder reads of it, and what the wire
decoder reads of the bytes of a command; and the step that takes a word up (R96).
-/
namespace Sys2Proof.Machine

/-! ### The fields of a descriptor (R81) -/

/-- A field above a slot does not depend on it. -/
theorem extract_append_slot {n : Nat} (x : BitVec n) (a : U16) (start len : Nat) :
    (x ++ a).extractLsb' (start + 16) len = x.extractLsb' start len := by
  rw [BitVec.extractLsb'_append_eq_of_le (Nat.le_add_left 16 start), Nat.add_sub_cancel]

section
variable (op : Byte) (a0 a1 a2 a3 a4 : U16)

@[simp] theorem slot4_descriptorOf : Op.slot4 (descriptorOf op a0 a1 a2 a3 a4) = a4 := BitVec.extractLsb'_append_eq_right

@[simp] theorem slot3_descriptorOf : Op.slot3 (descriptorOf op a0 a1 a2 a3 a4) = a3 :=
  (extract_append_slot _ a4 0 16).trans BitVec.extractLsb'_append_eq_right

@[simp] theorem slot2_descriptorOf : Op.slot2 (descriptorOf op a0 a1 a2 a3 a4) = a2 :=
  (extract_append_slot _ a4 16 16).trans <| (extract_append_slot _ a3 0 16).trans BitVec.extractLsb'_append_eq_right

@[simp] theorem slot1_descriptorOf : Op.slot1 (descriptorOf op a0 a1 a2 a3 a4) = a1 :=
  (extract_append_slot _ a4 32 16).trans <| (extract_append_slot _ a3 16 16).trans <|
    (extract_append_slot _ a2 0 16).trans BitVec.extractLsb'_append_eq_right

@[simp] theorem slot0_descriptorOf : Op.slot0 (descriptorOf op a0 a1 a2 a3 a4) = a0 :=
  (extract_append_slot _ a4 48 16).trans <| (extract_append_slot _ a3 32 16).trans <|
    (extract_append_slot _ a2 16 16).trans <| (extract_append_slot _ a1 0 16).trans BitVec.extractLsb'_append_eq_right

@[simp] theorem code_descriptorOf : Op.code (descriptorOf op a0 a1 a2 a3 a4) = op :=
  (extract_append_slot _ a4 64 8).trans <| (extract_append_slot _ a3 48 8).trans <|
    (extract_append_slot _ a2 32 8).trans <| (extract_append_slot _ a1 16 8).trans BitVec.extractLsb'_append_eq_left

end

@[simp] theorem code_and (d m : Descriptor) : Op.code (d &&& m) = Op.code d &&& Op.code m := BitVec.extractLsb'_and
@[simp] theorem slot0_and (d m : Descriptor) : Op.slot0 (d &&& m) = Op.slot0 d &&& Op.slot0 m := BitVec.extractLsb'_and
@[simp] theorem slot1_and (d m : Descriptor) : Op.slot1 (d &&& m) = Op.slot1 d &&& Op.slot1 m := BitVec.extractLsb'_and
@[simp] theorem slot2_and (d m : Descriptor) : Op.slot2 (d &&& m) = Op.slot2 d &&& Op.slot2 m := BitVec.extractLsb'_and
@[simp] theorem slot3_and (d m : Descriptor) : Op.slot3 (d &&& m) = Op.slot3 d &&& Op.slot3 m := BitVec.extractLsb'_and
@[simp] theorem slot4_and (d m : Descriptor) : Op.slot4 (d &&& m) = Op.slot4 d &&& Op.slot4 m := BitVec.extractLsb'_and

/-! ### Encoding a request and reading it back (R82, R83) -/

theorem rotation_extract_setWidth (r : BitVec 2) : (r.setWidth 16).extractLsb' 0 2 = r := by
  revert r
  decide

/-- A request has a descriptor. -/
theorem encodeRequest_of_not_isWire {i : Instr} (h : i.isWire = false) : ∃ d, encodeRequest i = some d := by
  cases i <;> cases h <;> exact ⟨_, rfl⟩

/-- A wire command has none. -/
theorem encodeRequest_of_isWire {i : Instr} (h : i.isWire = true) : encodeRequest i = none := by
  cases i <;> cases h <;> rfl

/-- The descriptor of a request decodes to it, whatever its operands. -/
theorem decodeRequest_encodeRequest {i : Instr} {d : Descriptor} (h : encodeRequest i = some d) :
    decodeRequest d = .ok i := by
  cases i <;> cases h <;> simp [decodeRequest, rotation_extract_setWidth]

/-- Settles O1: a request is read back from the fields of its descriptor, a wire command from its opcode byte and
payload. -/
theorem encodeThenDecodeGivesTheInstruction : Obligations.EncodeThenDecodeGivesTheInstruction := by
  intro c i hc hi
  cases hw : i.isWire with
  | false =>
    obtain ⟨d, hd⟩ := encodeRequest_of_not_isWire hw
    exact ⟨.request d, by simp [encode, hd], decodeRequest_encodeRequest hd⟩
  | true =>
    obtain ⟨opcode, payload, he⟩ := encodeWire_of_isWire hw c
    exact ⟨.wire (opcode :: payload), by simp [encode, encodeRequest_of_isWire hw, he],
      decodePayload_encodeWire hc hi he⟩

/-! ### Bits a request ignores (R83, R86) -/

@[simp] theorem byte_and_ones (b : Byte) : b &&& 0xFF#8 = b := BitVec.and_allOnes
@[simp] theorem slot_and_ones (v : U16) : v &&& 0xFFFF#16 = v := BitVec.and_allOnes

theorem rotation_extract_and (v : U16) : (v &&& 3#16).extractLsb' 0 2 = v.extractLsb' 0 2 := by
  have hones : (3#16).extractLsb' 0 2 = BitVec.allOnes 2 := by decide
  rw [BitVec.extractLsb'_and, hones, BitVec.and_allOnes]

/-- Every operation reads its operation code. -/
theorem code_operandMask (op : Byte) : Op.code (operandMask op) = 0xFF#8 := by
  unfold operandMask
  split <;> exact code_descriptorOf _ _ _ _ _ _

theorem code_and_operandMask (d : Descriptor) (op : Byte) : Op.code (d &&& operandMask op) = Op.code d := by
  rw [code_and, code_operandMask, byte_and_ones]

/-- The decoder reads no bit outside the mask of its operation code. -/
theorem decodeRequest_and_operandMask (d : Descriptor) :
    decodeRequest (d &&& operandMask (Op.code d)) = decodeRequest d := by
  unfold decodeRequest
  rw [code_and_operandMask]
  split <;> rename_i hop
  case h_2 => simp [operandMask, hop, rotation_extract_and]
  all_goals simp [operandMask, hop]

/-- Settles O2: equal under the mask, the two descriptors have one operation code and so one mask, and nothing outside it is
read. -/
theorem ignoredBitsDoNotChangeTheRequest : Obligations.IgnoredBitsDoNotChangeTheRequest := by
  intro d d' h
  have hcode : Op.code d' = Op.code d := by
    rw [← code_and_operandMask d' (Op.code d), ← h, code_and_operandMask]
  rw [← decodeRequest_and_operandMask d', hcode, ← h, decodeRequest_and_operandMask]

/-- Settles O3: each word is evaluated. -/
theorem tableWordsDecodeAsWritten : Obligations.TableWordsDecodeAsWritten :=
  ⟨rfl, rfl, rfl, rfl, rfl, rfl, rfl, rfl, rfl, rfl, rfl⟩

/-! ### What the wire decoder reads (R88, R92) -/

theorem colorBytes_of_colorsOfBytes {bytes : List Byte} {colors : List Color} (h : colorsOfBytes bytes = some colors) :
    bytes = colorBytes colors := by
  induction bytes using colorsOfBytes.induct generalizing colors with
  | case1 => cases h; rfl
  | case2 => cases h
  | case3 hi lo rest ih =>
    obtain ⟨more, hmore, rfl⟩ := Option.map_eq_some_iff.mp h
    rw [ih hmore, colorBytes, hi8_join16, lo8_join16]

/-- Bytes are the encoding of a wire command, but for the value of a colour-mode byte (log entry 5). -/
def EncodedAs (c : Cfg) (i : Instr) (opcode : Byte) (payload : List Byte) : Prop :=
  encodeWire c i = some (opcode, payload) ∨ (i = .setColorMode ∧ opcode = c.opcColmod ∧ ∃ b, payload = [b])

theorem decodeMemoryWrite_ok {c : Cfg} {payload : List Byte} {i : Instr}
    (h : decodeMemoryWrite c.opcRamwr payload = .ok i) : encodeWire c i = some (c.opcRamwr, payload) := by
  unfold decodeMemoryWrite at h
  split at h
  next col cols hcolors =>
    cases h
    rw [encodeWire, colorBytes_of_colorsOfBytes hcolors]
  all_goals cases h

theorem decodeMadctl_ok {c : Cfg} {b : Byte} {i : Instr} (h : decodeMadctl c b = .ok i) :
    encodeWire c i = some (c.opcMadctl, [b]) := by
  unfold decodeMadctl at h
  dsimp only at h
  split at h
  next hb =>
    cases h
    rw [encodeWire, ← hb]
  next => cases h

/-- A payload the decoder reads is the payload of what it reads. -/
theorem decodePayload_ok {c : Cfg} {opcode : Byte} {payload : List Byte} {i : Instr}
    (h : decodePayload c opcode payload = .ok i) : EncodedAs c i opcode payload := by
  unfold decodePayload at h
  split_ifs at h with hslpout hcolmod hmadctl hcaset hraset hramwr hvscrdef hvscsad hdispon <;> subst opcode
  -- `memory_write`, `set_memory_access_control` and `set_color_mode`; the others hold their operands byte by byte
  on_goal 6 => exact .inl (decodeMemoryWrite_ok h)
  on_goal 3 =>
    split at h
    · exact .inl (decodeMadctl_ok h)
    · cases h
  on_goal 2 =>
    split at h <;> cases h
    exact .inr ⟨rfl, rfl, _, rfl⟩
  all_goals
    split at h <;> cases h
    exact .inl (by simp [encodeWire, msbFirst])

/-! ### The step takes a word up (R96) -/

theorem idle_iff {s : State} : s.idle = true ↔ cfgValid s.cfg = true ∧ s.busy = false ∧ s.direct = none := by
  simp [State.idle, and_assoc]

/-- What an idle block makes of the request presented first. -/
theorem step_idle {s : State} {d : Descriptor} {stream : StreamPort} {rest : List HostInput} (hs : s.idle = true)
    (hin : s.inbox = .request d stream :: rest) : step s = (acceptRequest d stream rest s).outcome := by
  obtain ⟨hc, hb, hd⟩ := idle_iff.mp hs
  simp [step_eq_outcome, fetch, takeInput, hc, hb, hd, hin]

/-- What a block that is not busy makes of the bytes at the direct port (log entry 4). -/
theorem step_direct {s : State} {bytes : List Byte} (hc : cfgValid s.cfg = true) (hb : s.busy = false)
    (hd : s.direct = some bytes) : step s = (takeDirect bytes s).outcome := by
  simp [step_eq_outcome, fetch, hc, hb, hd]

/-- Settles O4: the request is accepted and its descriptor selects the meaning. -/
theorem stepRunsTheDecodedRequest : Obligations.StepRunsTheDecodedRequest := by
  intro s d stream rest i hs hin hd
  rw [step_idle hs hin, acceptRequest, hd]
  rfl

/-- Settles O5: the bytes at the direct port select the meaning. -/
theorem stepRunsTheDecodedWireCommand : Obligations.StepRunsTheDecodedWireCommand := by
  intro s bytes i hc hb hd hi
  rw [step_direct hc hb hd, takeDirect, hi]
  rfl

theorem decodePayload_unknown {c : Cfg} {opcode : Byte} (h : opcode ∉ opcodes c) (payload : List Byte) :
    decodePayload c opcode payload = .error (.unknownOpcode opcode) := by
  simp only [opcodes, List.mem_cons, List.not_mem_nil, or_false, not_or] at h
  simp [decodePayload, h]

/-- Settles O26: what the decoder reads is an encoding, and what it refuses stops by its reason. -/
theorem malformedWireCommandsStop : Obligations.MalformedWireCommandsStop := by
  refine ⟨fun c bytes i h => ?_, fun c opcode payload h => decodePayload_unknown h payload, fun s hc => if_pos hc, ?_⟩
  · cases bytes with
    | nil => cases h
    | cons opcode payload =>
      obtain he | ⟨rfl, rfl, b, rfl⟩ := decodePayload_ok h
      · exact ⟨opcode, payload, he, .inl rfl⟩
      · exact ⟨_, _, rfl, .inr ⟨rfl, b, rfl⟩⟩
  · intro s bytes why hc hb hd hi
    rw [step_direct hc hb hd, takeDirect, hi]
    rfl

/-! ### The response word (R85) -/

theorem responseCode_responseWord (code : Code) (xfault : Bool) (phase : Phase) :
    responseCode (responseWord code xfault phase) = code.number.toNat :=
  congrArg BitVec.toNat BitVec.extractLsb'_append_eq_right

theorem code_number_le (code : Code) : code.number.toNat ≤ 6 := by
  cases code <;> decide

theorem responseWord_xfault (code : Code) (xfault : Bool) (phase : Phase) :
    (responseWord code xfault phase).getLsbD 3 = xfault := by
  have habove : (responseWord code xfault phase).getLsbD 3 = (phase.number ++ BitVec.ofBool xfault).getLsbD 0 :=
    BitVec.getLsbD_append
  rw [habove, BitVec.getLsbD_append]
  simp

theorem responseWord_phase (code : Code) (xfault : Bool) (phase : Phase) :
    (responseWord code xfault phase).extractLsb' 4 2 = phase.number := by
  rw [responseWord, BitVec.append_assoc]
  exact BitVec.extractLsb'_append_eq_left

/-- A request that ends, ends in one response with the status it leaves (R85, R97). -/
theorem exec_answers {i : Instr} {s t : State} (hb : s.busy = true) (h : exec i s = .next t) (ht : t.busy = false) :
    ∃ code, t.responses = s.responses ++ [responseWord code t.xfault t.phase] := by
  by_cases hi : i = .init
  · subst hi
    obtain rfl | ⟨-, u, ⟨w, d, x, v, l, rfl⟩, rfl | rfl | rfl⟩ := exec_init_next h
    · exact ⟨.notReady, rfl⟩
    · exact ⟨.ok, rfl⟩
    · exact ⟨.initError, rfl⟩
    · cases ht
  · obtain ⟨u, ⟨sent, d, v, stream, pulled, rfl⟩, rfl | ⟨e, rfl⟩ | rfl | ⟨results, rfl⟩⟩ := exec_next hi h
    · exact ⟨.ok, by simp⟩
    · exact ⟨e, by simp⟩
    · cases ht
    · exact absurd (hb.symm.trans ht) nofun

/-- Settles O36: the step accepts the request, which is answered by its operation code or by its meaning; the fields of the
word are those of R85. -/
theorem everyFinishedRequestHasOneResponse : Obligations.EveryFinishedRequestHasOneResponse := by
  intro s t d stream rest hs hin h hb
  rw [step_idle hs hin] at h
  obtain ⟨code, hcode⟩ : ∃ code, t.responses = s.responses ++ [responseWord code t.xfault t.phase] := by
    obtain ⟨d, stream, rest, -, rfl | ⟨i, -, he⟩⟩ := acceptRequest_next hin h
    · exact ⟨.illegalRequest, rfl⟩
    · exact exec_answers (s := accept d stream rest s) rfl he hb
  refine ⟨_, hcode, ?_, responseWord_xfault _ _ _, ?_⟩
  · rw [responseCode_responseWord]
    exact code_number_le code
  · rw [responseWord_phase]
    cases t.phase <;> rfl

end Sys2Proof.Machine
end

section
/-!
The invariant of the whole machine (10_state.md rules R21 and R24, 30_encoding.md rule R98, 45_init.md rule R244). A state
in which a command may be sent is `Lawful`: the invariant holds and a reset pulse stands in the trace. Every request keeps
this, burst by burst, and `INIT` establishes it with its reset pulse.
-/
namespace Sys2Proof.Machine

theorem inv_iff {s : State} :
    s.inv = true ↔ cfgValid s.cfg = true ∧ strapsOk s = true ∧ scrollOk s.ph s.scr = true ∧
      traceOk s.cfg s.trace.reverse = true ∧ (s.phase = .ready → started s.trace.reverse = true) ∧ s.direct = none := by
  simp [State.inv, and_assoc, imp_iff_not_or]

/-! ### The order of a trace, newest event first (R98) -/

theorem traceOk_cons {c : Cfg} {e : Event} {before : List Event} :
    traceOk c (e :: before) = true ↔ eventOk c before e = true ∧ traceOk c before = true := by
  rw [traceOk, Bool.and_eq_true]

theorem traceOk_of_append {c : Cfg} {after before : List Event} (h : traceOk c (after ++ before) = true) :
    traceOk c before = true := by
  induction after with
  | nil => exact h
  | cons e after ih => exact ih (traceOk_cons.mp h).2

/-- A reset pulse stays in the trace (R244). -/
theorem started_append {before : List Event} (h : started before = true) (after : List Event) :
    started (after ++ before) = true := by
  induction after with
  | nil => exact h
  | cons e after ih => simp [started, ih]

/-- Where a burst may stand complete, it may stand cut short. -/
theorem eventOk_cut {c : Cfg} {before : List Event} {b : Level × List Byte} {ending : Ending}
    (h : eventOk c before (completed b) = true) (he : ending ≠ .complete) (n : Nat) :
    eventOk c before (.burst b.1 (b.2.take n) ending) = true := by
  obtain ⟨level, bytes⟩ := b
  cases level with
  | data =>
    cases ending with
    | complete => exact absurd rfl he
    | faulted => rfl
    | stalled => rfl
  | command =>
    simp only [completed, eventOk, Bool.and_eq_true, decide_eq_true_eq, List.all_eq_true] at h ⊢
    obtain ⟨hlen, hall⟩ := h
    exact ⟨(List.length_take_le' n bytes).trans hlen, fun b hb => hall b (List.mem_of_mem_take hb)⟩

theorem encodeWire_ne_raset {c : Cfg} {i : Instr} {opcode : Byte} {payload : List Byte} (hc : cfgValid c = true)
    (he : encodeWire c i = some (opcode, payload)) (hr : ∀ ys ye, i ≠ .setAddressWindowRows ys ye) :
    opcode ≠ c.opcRaset := by
  have hd := opcodes_pairwise hc
  simp only [opcodes, List.pairwise_cons, List.forall_mem_cons] at hd
  cases i <;> cases he
  case setAddressWindowRows ys ye => exact absurd rfl (hr ys ye)
  all_goals simp [hd]

/-- Every command but a memory write may stand after a reset pulse, a row command only after a column command (R98). -/
theorem traceOk_wireBursts {c : Cfg} {i : Instr} {opcode : Byte} {payload : List Byte} {before : List Event}
    (hc : cfgValid c = true) (he : encodeWire c i = some (opcode, payload)) (hm : ∀ colors, i ≠ .memoryWrite colors)
    (hr : opcode = c.opcRaset → (columnsBefore c before).isSome = true) (hs : started before = true)
    (h : traceOk c before = true) : traceOk c (((wireBursts opcode payload).map completed).reverse ++ before) = true := by
  obtain ⟨hne, hlen⟩ := shortestPayload_encodeWire hc he hm
  have hbyte : commandByteOk c before opcode = true := by
    have hrow : opcode ≠ c.opcRaset ∨ (columnsBefore c before).isSome = true := by
      by_cases heq : opcode = c.opcRaset
      · exact .inr (hr heq)
      · exact .inl heq
    simp [commandByteOk, mem_opcodes_of_encodeWire he, hne, hs, hrow]
  cases payload with
  | nil => simp [wireBursts, completed, traceOk, eventOk, hbyte, h]
  | cons b payload =>
    rw [List.length_cons] at hlen
    simp [wireBursts, completed, traceOk, eventOk, hbyte, h, dataBurstOk, hne, hlen]

/-- The bursts of a window and of the opcode byte of its write (R140). -/
def windowBursts (c : Cfg) (win : AddressWindow) : List (Level × List Byte) :=
  wireBursts c.opcCaset (msbFirst win.xStart ++ msbFirst win.xEnd) ++
    wireBursts c.opcRaset (msbFirst win.yStart ++ msbFirst win.yEnd) ++ [(.command, [c.opcRamwr])]

theorem storeBursts_eq (c : Cfg) (win : AddressWindow) (bytes : List Byte) :
    storeBursts c win bytes = windowBursts c win ++ [(.data, bytes)] := rfl

/-- A complete column command can be read back from the trace. -/
theorem columnsBefore_wireBursts (c : Cfg) (xs xe : U16) (before : List Event) :
    columnsBefore c (((wireBursts c.opcCaset (msbFirst xs ++ msbFirst xe)).map completed).reverse ++ before) =
      some (xs, xe) := by
  simp [columnsBefore, wireBursts, msbFirst, completed]

/-- A complete window can be read back from the trace. -/
theorem windowBefore_wireBursts (c : Cfg) (win : AddressWindow) (before : List Event) :
    windowBefore c (((wireBursts c.opcRaset (msbFirst win.yStart ++ msbFirst win.yEnd)).map completed).reverse ++
      (((wireBursts c.opcCaset (msbFirst win.xStart ++ msbFirst win.xEnd)).map completed).reverse ++ before)) =
      some win := by
  simp [windowBefore, columnsBefore, wireBursts, msbFirst, completed]

/-- A window and the opcode byte of its write may stand after a reset pulse. -/
theorem traceOk_windowBursts {c : Cfg} (hc : cfgValid c = true) (win : AddressWindow) {before : List Event}
    (hs : started before = true) (h : traceOk c before = true) :
    traceOk c (((windowBursts c win).map completed).reverse ++ before) = true := by
  have hcolumns := traceOk_wireBursts (i := .setAddressWindowColumns win.xStart win.xEnd) hc rfl nofun
    (fun heq => absurd heq (encodeWire_ne_raset hc (i := .setAddressWindowColumns win.xStart win.xEnd) rfl nofun)) hs h
  have hrows := traceOk_wireBursts (i := .setAddressWindowRows win.yStart win.yEnd) hc rfl nofun
    (fun _ => by rw [columnsBefore_wireBursts]; rfl) (started_append hs _) hcolumns
  have hwindow := windowBefore_wireBursts c win before
  have hne : c.opcRamwr ≠ c.opcRaset := encodeWire_ne_raset hc (i := .memoryWrite []) rfl nofun
  have hstart := started_append (started_append hs
    ((wireBursts c.opcCaset (msbFirst win.xStart ++ msbFirst win.xEnd)).map completed).reverse)
    ((wireBursts c.opcRaset (msbFirst win.yStart ++ msbFirst win.yEnd)).map completed).reverse
  simp only [windowBursts, List.map_append, List.reverse_append, List.append_assoc]
  refine traceOk_cons.mpr ⟨?_, hrows⟩
  simp [completed, eventOk, commandByteOk, hwindow, hne, hstart, opcodes]

/-- After them a write of two bytes for each pixel of the window may stand (R98). -/
theorem dataBurstOk_windowBursts (c : Cfg) {win : AddressWindow} {bytes : List Byte}
    (hn : bytes.length = 2 * win.pixels) (before : List Event) :
    dataBurstOk c (((windowBursts c win).map completed).reverse ++ before) bytes = true := by
  have hwindow := windowBefore_wireBursts c win before
  simp only [windowBursts, List.map_append, List.reverse_append, List.append_assoc]
  simp [completed, dataBurstOk, hwindow, hn]

/-! ### Bursts sent from a lawful state -/

/-- The invariant holds and the controller has been reset: a command may be sent. -/
def Lawful (s : State) : Prop := s.inv = true ∧ started s.trace.reverse = true

/-- However a flow ends the invariant holds, and where it goes on a command may be sent. -/
def Flow.KeepsLaw (f : Flow) : Prop := f.Ends Lawful (fun _ t => t.inv = true) fun t => t.inv = true

theorem Flow.KeepsLaw.andThen {f : Flow} {k : State → Flow} (h : f.KeepsLaw) (hk : ∀ t, Lawful t → (k t).KeepsLaw) :
    (f.andThen k).KeepsLaw := Flow.Ends.andThen h hk

/-- The invariant speaks of the trace, the configuration, the straps, `SCR`, `PHASE` and the direct port alone. -/
theorem inv_append {s : State} (hs : s.inv = true) {sent : List Event}
    (h : traceOk s.cfg (sent.reverse ++ s.trace.reverse) = true) (d l : BitVec 1) (x : Bool) (v : Env) :
    ({ s with trace := s.trace ++ sent, dcl := d, rstl := l, xfault := x, env := v } : State).inv = true := by
  obtain ⟨hc, hstraps, hscr, -, hstart, hdirect⟩ := inv_iff.mp hs
  refine inv_iff.mpr ⟨hc, hstraps, hscr, ?_, fun hp => ?_, hdirect⟩
  · rw [List.reverse_append]
    exact h
  · rw [List.reverse_append]
    exact started_append (hstart hp) _

theorem Lawful.append {s : State} (hs : Lawful s) {sent : List Event}
    (h : traceOk s.cfg (sent.reverse ++ s.trace.reverse) = true) (d : BitVec 1) (v : Env) :
    Lawful { s with trace := s.trace ++ sent, dcl := d, env := v } := by
  refine ⟨inv_append hs.1 h d s.rstl s.xfault v, ?_⟩
  rw [List.reverse_append]
  exact started_append hs.2 _

/-- Bursts that may stand complete after the trace keep the invariant wherever they stop (R114). -/
theorem inv_of_stoppedIn {bs : List (Level × List Byte)} {ending : Ending} {s t : State} (hs : s.inv = true)
    (h : traceOk s.cfg ((bs.map completed).reverse ++ s.trace.reverse) = true) (he : ending ≠ .complete)
    (ht : StoppedIn bs ending s t) : t.inv = true := by
  obtain ⟨before, b, after, n, d, x, v, rfl, rfl⟩ := ht
  rw [List.append_assoc]
  refine inv_append hs ?_ d s.rstl x v
  simp only [List.map_append, List.map_cons, List.reverse_append, List.reverse_cons, List.append_assoc,
    List.reverse_nil, List.nil_append, List.cons_append] at h ⊢
  obtain ⟨hb, hbefore⟩ := traceOk_cons.mp (traceOk_of_append h)
  exact traceOk_cons.mpr ⟨eventOk_cut hb he n, hbefore⟩

/-- Bursts that may stand complete after the trace. -/
theorem runBursts_lawful {bs : List (Level × List Byte)} {s : State} (hs : Lawful s)
    (h : traceOk s.cfg ((bs.map completed).reverse ++ s.trace.reverse) = true) :
    (runBursts bs s).Ends
      (fun t => Lawful t ∧ ∃ d v, t = { s with trace := s.trace ++ bs.map completed, dcl := d, env := v })
      (fun _ t => t.inv = true) (fun t => t.inv = true) := by
  refine (runBursts_ends bs s).mono ?_ ?_ ?_
  · rintro t ⟨d, v, rfl⟩
    exact ⟨hs.append h d v, d, v, rfl⟩
  · rintro e t ⟨-, -, ht⟩
    exact inv_of_stoppedIn (ending := .faulted) hs.1 h nofun ht
  · rintro t ⟨-, ht⟩
    exact inv_of_stoppedIn (ending := .stalled) hs.1 h nofun ht

theorem Flow.Ends.keepsLaw {p : State → Prop} {f : Flow}
    (h : f.Ends (fun t => Lawful t ∧ p t) (fun _ t => t.inv = true) fun t => t.inv = true) : f.KeepsLaw :=
  h.mono (fun _ ht => ht.1) (fun _ _ => id) fun _ => id

/-- A command that is neither a memory write nor a row command. -/
theorem command_lawful {i : Instr} {opcode : Byte} {payload : List Byte} {s : State} (hs : Lawful s)
    (he : encodeWire s.cfg i = some (opcode, payload)) (hm : ∀ colors, i ≠ .memoryWrite colors)
    (hr : ∀ ys ye, i ≠ .setAddressWindowRows ys ye) :
    (runBursts (wireBursts opcode payload) s).Ends
      (fun t => Lawful t ∧
        ∃ d v, t = { s with trace := s.trace ++ (wireBursts opcode payload).map completed, dcl := d, env := v })
      (fun _ t => t.inv = true) (fun t => t.inv = true) := by
  obtain ⟨hc, -, -, htrace, -, -⟩ := inv_iff.mp hs.1
  exact runBursts_lawful hs
    (traceOk_wireBursts hc he hm (fun heq => absurd heq (encodeWire_ne_raset hc he hr)) hs.2 htrace)

/-- A window and its write, one colour for each pixel (R140). -/
theorem memWrite_lawful {win : AddressWindow} {colors : List Color} {s : State} (hs : Lawful s)
    (hn : colors.length = win.pixels) : (memWrite win colors s).KeepsLaw := by
  obtain ⟨hc, -, -, htrace, -, -⟩ := inv_iff.mp hs.1
  rw [memWrite_eq, storeBursts_eq]
  refine (runBursts_lawful hs ?_).keepsLaw
  rw [List.map_append, List.reverse_append, List.append_assoc]
  exact traceOk_cons.mpr ⟨dataBurstOk_windowBursts _ (by rw [length_colorBytes, hn]) _,
    traceOk_windowBursts hc win hs.2 htrace⟩

/-- The bursts of a window and of the opcode byte come before the pixels of a byte stream as well (R194). -/
theorem memWriteFromStream_eq (win : AddressWindow) (n : Nat) (s : State) :
    memWriteFromStream win n s = (runBursts (windowBursts s.cfg win) s).andThen (writePixelsFromStream n) := by
  rw [memWriteFromStream, setAddressWindow_eq, windowBursts, runBursts_append, andThen_assoc]
  refine andThen_congr fun t ht => ?_
  rw [memoryWriteFromStream, sendCommand_eq, runBursts_cfg ht]

/-- The pixel burst of an image (R119): a refusal, or a burst of the stream's pixels that, if it completes, carries two
bytes for each of the `n`. -/
theorem writePixelsFromStream_cases (n : Nat) (s : State) :
    writePixelsFromStream n s = .refuse .streamExhausted ∨
    ∃ bytes pulled, writePixelsFromStream n s = burst .data bytes (s.pull pulled) ∧
      (s.env.verdict = .ok → bytes.length = 2 * n) := by
  unfold writePixelsFromStream
  dsimp only
  split
  next => exact .inl rfl
  next henough =>
    refine .inr ⟨_, _, rfl, fun hv => ?_⟩
    rw [hv, BurstVerdict.reach] at henough
    rw [length_colorBytes, length_imageColors, List.length_take] at henough ⊢
    omega

/-- A pixel burst may stand complete only with two bytes for each pixel, and cut short anywhere. -/
theorem writePixelsFromStream_lawful {n : Nat} {s : State} (hs : Lawful s)
    (hn : ∀ bytes, bytes.length = 2 * n → dataBurstOk s.cfg s.trace.reverse bytes = true) :
    (writePixelsFromStream n s).KeepsLaw := by
  obtain ⟨-, -, -, htrace, -⟩ := inv_iff.mp hs.1
  obtain h | ⟨bytes, pulled, h, hlen⟩ := writePixelsFromStream_cases n s <;> rw [h]
  · trivial
  obtain ⟨hv, h⟩ | ⟨m, a, -, h⟩ | ⟨m, a, -, h⟩ := burst_cases .data bytes (s.pull pulled) <;> rw [h]
  · exact Lawful.append (s := s.pull pulled) hs (sent := [.burst .data bytes .complete])
      (traceOk_cons.mpr ⟨hn bytes (hlen hv), htrace⟩) _ _
  · exact inv_append (s := s.pull pulled) hs.1 (sent := [.burst .data (bytes.take m) .faulted])
      (traceOk_cons.mpr ⟨rfl, htrace⟩) _ _ _ _
  · exact inv_append (s := s.pull pulled) hs.1 (sent := [.burst .data (bytes.take m) .stalled])
      (traceOk_cons.mpr ⟨rfl, htrace⟩) _ _ _ _

theorem memWriteFromStream_lawful {win : AddressWindow} {n : Nat} {s : State} (hs : Lawful s) (hn : win.pixels = n) :
    (memWriteFromStream win n s).KeepsLaw := by
  obtain ⟨hc, -, -, htrace, -, -⟩ := inv_iff.mp hs.1
  rw [memWriteFromStream_eq]
  refine Flow.Ends.andThen (runBursts_lawful hs (traceOk_windowBursts hc win hs.2 htrace)) ?_
  rintro t ⟨ht, d, v, rfl⟩
  refine writePixelsFromStream_lawful ht fun bytes hlen => ?_
  rw [List.reverse_append]
  exact dataBurstOk_windowBursts s.cfg (by rw [hlen, hn]) _

/-! ### The requests but `INIT` -/

theorem clearScreen_lawful (color : Color) {s : State} (hs : Lawful s) : (clearScreen color s).KeepsLaw := by
  obtain ⟨hc, hstraps, -⟩ := inv_iff.mp hs.1
  refine memWrite_lawful hs ?_
  rw [List.length_replicate, (fullWindow_covers hc hstraps).2]

theorem drawItem_lawful (item : PixelItem) {s : State} (hs : Lawful s) : (drawItem item s).KeepsLaw := by
  unfold drawItem
  split
  next hp => exact memWrite_lawful hs (translate_covers (rectOK_of_positionInside hp)).2.symm
  next => exact hs

theorem drawItems_lawful (items : List PixelItem) {s : State} (hs : Lawful s) : (drawItems items s).KeepsLaw := by
  induction items generalizing s with
  | nil => trivial
  | cons item items ih =>
    unfold drawItems
    split
    · exact hs
    · exact (drawItem_lawful item (s := s.pull 1) hs).andThen fun _ => ih

theorem fillWindow_lawful (xs xe ys ye : U16) (color : Color) {s : State} (hs : Lawful s) :
    (fillWindow xs xe ys ye color s).KeepsLaw := by
  unfold fillWindow
  split
  next hw =>
    refine memWrite_lawful hs ?_
    rw [List.length_replicate, (translate_covers (rectOK_of_winOK hw)).2]
  next => exact hs.1

theorem drawImageRect_lawful (x y w h : U16) {s : State} (hs : Lawful s) : (drawImageRect x y w h s).KeepsLaw := by
  unfold drawImageRect
  split
  · exact hs
  · split
    next hr => exact memWriteFromStream_lawful hs (translate_covers hr).2
    next => exact hs.1

theorem setMemoryAccessControl_lawful (rot : BitVec 2) (mir : Bool) {s : State} (hs : Lawful s) :
    (setMemoryAccessControl rot mir s).KeepsLaw := by
  rw [setMemoryAccessControl, sendMadctl, commandWith_eq]
  exact (command_lawful (i := .setMemoryAccessControl _ _) hs rfl nofun nofun).keepsLaw

theorem orient_lawful (rotation : BitVec 2) {s : State} (hs : Lawful s) : (orient rotation s).KeepsLaw :=
  (setMemoryAccessControl_lawful rotation s.mir hs).andThen fun _ => id

/-- A scroll layout may be replaced by one that keeps the invariant of `SCR` (R24). -/
theorem Lawful.setScroll {s : State} (hs : Lawful s) {scr : Scroll} (h : scrollOk s.ph scr = true) :
    Lawful { s with scr := scr } := by
  obtain ⟨hc, hstraps, -, hrest⟩ := inv_iff.mp hs.1
  exact ⟨inv_iff.mpr ⟨hc, hstraps, h, hrest⟩, hs.2⟩

theorem scrollOk_iff {ph : U16} {scr : Scroll} :
    scrollOk ph scr = true ↔ scr.top.toNat + scr.area.toNat + scr.bottom.toNat = ph.toNat ∧
      (scr.offset.toNat < scr.area.toNat ∨ scr.area = 0 ∧ scr.offset = 0) := by
  simp [scrollOk]

/-- A layout that sums to the panel's rows, with the offset 0 (R220). -/
theorem scrollOk_layout {ph top area bottom : U16} (h : top.toNat + area.toNat + bottom.toNat = ph.toNat) :
    scrollOk ph { top := top, area := area, bottom := bottom, offset := 0 } = true := by
  refine scrollOk_iff.mpr ⟨h, ?_⟩
  by_cases ha : area = 0
  · exact .inr ⟨ha, rfl⟩
  · exact .inl (Nat.pos_of_ne_zero fun h0 => ha (BitVec.eq_of_toNat_eq h0))

theorem layoutScroll_lawful (top area bottom : U16) {s : State} (hs : Lawful s) :
    (layoutScroll top area bottom s).KeepsLaw := by
  unfold layoutScroll
  split
  next hsum =>
    rw [setScrollArea, commandWith_eq]
    refine Flow.Ends.andThen (command_lawful (i := .setScrollArea top area bottom) hs rfl nofun nofun) ?_
    rintro t ⟨ht, d, v, rfl⟩
    exact ht.setScroll (scrollOk_layout hsum)
  next => exact hs.1

theorem moveOffset_lawful (offset : U16) {s : State} (hs : Lawful s) : (moveOffset offset s).KeepsLaw := by
  unfold moveOffset
  split
  next hlt =>
    obtain ⟨-, -, hscr, -⟩ := inv_iff.mp hs.1
    rw [setScrollOffset, commandWith_eq]
    refine Flow.Ends.andThen (command_lawful (i := .setScrollOffset offset) hs rfl nofun nofun) ?_
    rintro t ⟨ht, d, v, rfl⟩
    exact ht.setScroll (scrollOk_iff.mpr ⟨(scrollOk_iff.mp hscr).1, .inl hlt⟩)
  next => exact hs.1

/-! ### `INIT` (R240) -/

theorem setRST_inv (l : BitVec 1) {s : State} (hs : s.inv = true) :
    (setRST l s).Ends (fun t => t.inv = true ∧ ∃ before, t.trace.reverse = .rst l :: before)
      (fun _ t => t.inv = true) fun t => t.inv = true := by
  obtain ⟨-, -, -, htrace, -⟩ := inv_iff.mp hs
  exact ⟨inv_append hs (sent := [.rst l]) (traceOk_cons.mpr ⟨rfl, htrace⟩) s.dcl l s.xfault s.env,
    s.trace.reverse, by simp⟩

theorem delay_inv (ms : Nat) {s : State} (hs : s.inv = true) :
    (delay ms s).Ends (fun t => t.inv = true ∧ t.trace.reverse = .dly ms :: s.trace.reverse)
      (fun _ t => t.inv = true) fun t => t.inv = true := by
  obtain ⟨-, -, -, htrace, -⟩ := inv_iff.mp hs
  have hinv := inv_append hs (sent := [.dly ms]) (traceOk_cons.mpr ⟨rfl, htrace⟩) s.dcl s.rstl s.xfault
    { s.env with delays := s.env.delays.tail }
  unfold delay
  dsimp only
  split
  · exact ⟨hinv, by simp⟩
  · exact hinv

/-- The reset pulse with its delays: from here on a command may be sent (R131, R244). -/
theorem resetSequence_lawful {s : State} (hs : s.inv = true) : (resetSequence s).KeepsLaw := by
  have hlow : ((setRST 0 s).andThen fun t => delay t.cfg.tRstLowMs t).Ends (fun t => t.inv = true)
      (fun _ t => t.inv = true) fun t => t.inv = true :=
    Flow.Ends.andThen (setRST_inv 0 hs) fun t ht => (delay_inv _ ht.1).mono (fun _ hu => hu.1) (fun _ _ => id) fun _ => id
  refine Flow.Ends.andThen (Flow.Ends.andThen hlow fun t => setRST_inv 1) ?_
  rintro t ⟨ht, before, hrst⟩
  refine (delay_inv _ ht).mono (fun u hu => ⟨hu.1, ?_⟩) (fun _ _ => id) fun _ => id
  rw [hu.2, hrst]
  simp [started]

theorem sleepOut_lawful {s : State} (hs : Lawful s) : (sleepOut s).KeepsLaw := by
  rw [sleepOut, sendCommand_eq]
  exact (command_lawful (i := .sleepOut) hs rfl nofun nofun).keepsLaw

theorem displayOn_lawful {s : State} (hs : Lawful s) : (displayOn s).KeepsLaw := by
  rw [displayOn, sendCommand_eq]
  exact (command_lawful (i := .displayOn) hs rfl nofun nofun).keepsLaw

theorem setColorMode_lawful {s : State} (hs : Lawful s) : (setColorMode s).KeepsLaw := by
  rw [setColorMode, commandWith_eq]
  exact (command_lawful (i := .setColorMode) hs rfl nofun nofun).keepsLaw

theorem sampleInitAck_lawful {s : State} (hs : Lawful s) : (sampleInitAck s).KeepsLaw := by
  unfold sampleInitAck
  dsimp only
  split
  · exact hs
  · exact hs.1

theorem startUp_lawful {s : State} (hs : s.inv = true) : (startUp s).KeepsLaw :=
  (((((resetSequence_lawful hs).andThen fun _ => sleepOut_lawful).andThen fun _ => setColorMode_lawful).andThen
    fun _ => sampleInitAck_lawful).andThen fun t => setMemoryAccessControl_lawful t.rot t.mir).andThen
    fun _ => displayOn_lawful

/-- The commit of `INIT`: the layout is the whole panel, and the reset pulse that `READY` asks for stands in the trace. -/
theorem Lawful.initCommit {s : State} (hs : Lawful s) : Lawful (initCommit s) := by
  obtain ⟨hc, hstraps, -, htrace, -, hdirect⟩ := inv_iff.mp hs.1
  exact ⟨inv_iff.mpr ⟨hc, hstraps, scrollOk_wholePanel s.ph, htrace, fun _ => hs.2, hdirect⟩, hs.2⟩

theorem inv_dead {s : State} (hs : s.inv = true) : ({ s with phase := .dead } : State).inv = true := by
  obtain ⟨hc, hstraps, hscr, htrace, -, hdirect⟩ := inv_iff.mp hs
  exact inv_iff.mpr ⟨hc, hstraps, hscr, htrace, nofun, hdirect⟩

theorem initialise_lawful {s : State} (hs : s.inv = true) : (initialise s).KeepsLaw := by
  have h := startUp_lawful hs
  unfold initialise
  cases hf : startUp s <;> rw [hf] at h
  case ok u => exact Lawful.initCommit h
  case raise e u => exact inv_dead h
  case stuck u => exact h
  case refuse r => trivial

/-! ### The step -/

/-- A request whose operation keeps the law in the phases that allow it. -/
theorem runRequest_inv {allowed : Phase → Bool} {operation : State → Flow} {s t : State} (hs : s.inv = true)
    (ho : allowed s.phase = true → (operation s).KeepsLaw) (h : runRequest allowed operation s = .next t) :
    t.inv = true := by
  obtain ⟨-, ⟨-, rfl⟩ | ⟨hp, h⟩⟩ := runRequest_next h
  · exact hs
  have hkeeps := ho hp
  obtain ⟨u, hu, rfl⟩ | ⟨e, u, hu, rfl⟩ | ⟨u, hu, rfl⟩ := h <;> rw [hu] at hkeeps
  · exact hkeeps.1
  · exact hkeeps
  · exact hkeeps

theorem eq_ready_of_readyOnly {phase : Phase} (h : readyOnly phase = true) : phase = .ready := by
  cases phase with
  | ready => rfl
  | uninit => cases h
  | dead => cases h

/-- A request that executes only in `READY` starts from a lawful state. -/
theorem runRequest_ready_inv {operation : State → Flow} {s t : State} (hs : s.inv = true)
    (ho : Lawful s → (operation s).KeepsLaw) (h : runRequest readyOnly operation s = .next t) : t.inv = true := by
  refine runRequest_inv hs (fun hp => ho ⟨hs, ?_⟩) h
  obtain ⟨-, -, -, -, hstart, -⟩ := inv_iff.mp hs
  exact hstart (eq_ready_of_readyOnly hp)

/-- Every request keeps the invariant. -/
theorem exec_request_inv {i : Instr} {s t : State} (hw : i.isWire = false) (hs : s.inv = true)
    (h : exec i s = .next t) : t.inv = true := by
  cases i with
  | init => exact runRequest_inv hs (fun _ => initialise_lawful hs) h
  | setOrientation rotation => exact runRequest_ready_inv hs (orient_lawful rotation) h
  | clear color => exact runRequest_ready_inv hs (clearScreen_lawful color) h
  | drawPixels => exact runRequest_ready_inv hs (drawItems_lawful _) h
  | fillRect xs xe ys ye color => exact runRequest_ready_inv hs (fillWindow_lawful xs xe ys ye color) h
  | drawImage x y w h' => exact runRequest_ready_inv hs (drawImageRect_lawful x y w h') h
  | configureScroll top area bottom => exact runRequest_ready_inv hs (layoutScroll_lawful top area bottom) h
  | setOffset offset => exact runRequest_ready_inv hs (moveOffset_lawful offset) h
  | sleepOut | setColorMode | setMemoryAccessControl mv mx | setAddressWindowColumns xs xe
  | setAddressWindowRows ys ye | memoryWrite colors | setScrollArea top middle bottom | setScrollOffset offset
  | displayOn => cases hw

/-- Only a request is decoded from a descriptor (R82). -/
theorem isWire_of_decodeRequest {d : Descriptor} {i : Instr} (h : decodeRequest d = .ok i) : i.isWire = false := by
  unfold decodeRequest at h
  split at h <;> cases h <;> rfl

/-- With nothing at the direct port a step runs no wire command by itself. -/
theorem step_next_of_no_direct {s t : State} (hd : s.direct = none) (h : step s = .next t) :
    t = s ∨ (∃ rest, s.inbox = .blockReset :: rest ∧ t = blockReset rest s) ∨ TakesRequest s t := by
  rw [step_eq_outcome, fetch, hd] at h
  split at h
  next =>
    split at h
    next => exact .inl (waiting_next h)
    next => exact takeInput_next h
  next => cases h

/-- Settles O56: a step waits, is reset, or takes a request, which starts from the invariant of the state it is accepted
in. -/
theorem everyStepKeepsTheInvariant : Obligations.EveryStepKeepsTheInvariant := by
  intro s t hs h
  obtain ⟨hc, -, -, -, -, hd⟩ := inv_iff.mp hs
  obtain rfl | ⟨rest, -, rfl⟩ | ⟨d, stream, rest, -, rfl | ⟨i, hi, he⟩⟩ := step_next_of_no_direct hd h
  · exact hs
  · exact inv_resetWith hc
  · exact hs
  · exact exec_request_inv (s := accept d stream rest s) (isWire_of_decodeRequest hi) hs he

end Sys2Proof.Machine
end

section
/-!
`DRAW_PIXELS` item by item (30_encoding.md rule R94). What an item sends when no burst faults does not depend on the ports,
so drawing items commutes with pulling and answering, and a request of `k + 1` items is one of its first item and one of
the other `k`.
-/
namespace Sys2Proof.Machine

/-- The state an item leaves when no burst faults (R192). -/
def State.drawn (s : State) (item : PixelItem) : State :=
  if positionInside s.rot s.pw.toNat s.ph.toNat (Item.x item) (Item.y item) then
    { s with
      trace := s.trace ++ storeEvents s.cfg (s.translate (Item.x item).toNat (Item.y item).toNat 1 1)
        (colorBytes [Item.color item])
      dcl := s.cfg.dcData, env := s.env.after 6 }
  else s

theorem drawn_inside {s : State} {item : PixelItem}
    (hp : positionInside s.rot s.pw.toNat s.ph.toNat (Item.x item) (Item.y item) = true) :
    s.drawn item = { s with
      trace := s.trace ++ storeEvents s.cfg (s.translate (Item.x item).toNat (Item.y item).toNat 1 1)
        (colorBytes [Item.color item])
      dcl := s.cfg.dcData, env := s.env.after 6 } := if_pos hp

theorem drawn_outside {s : State} {item : PixelItem}
    (hp : ¬ positionInside s.rot s.pw.toNat s.ph.toNat (Item.x item) (Item.y item) = true) : s.drawn item = s := if_neg hp

/-- A state with what stands at its ports, its responses and `BUSY` replaced. -/
def State.withPorts (s : State) (stream : StreamPort) (pulled : Nat) (responses : List ResponseWord) (busy : Bool) :
    State := { s with stream := stream, pulled := pulled, responses := responses, busy := busy }

theorem drawn_withPorts (s : State) (item : PixelItem) (stream : StreamPort) (pulled : Nat)
    (responses : List ResponseWord) (busy : Bool) :
    (s.withPorts stream pulled responses busy).drawn item =
      (s.drawn item).withPorts stream pulled responses busy := by
  by_cases hp : positionInside s.rot s.pw.toNat s.ph.toNat (Item.x item) (Item.y item) = true
  · rw [drawn_inside hp, drawn_inside (s := s.withPorts stream pulled responses busy) hp]
    rfl
  · rw [drawn_outside hp, drawn_outside (s := s.withPorts stream pulled responses busy) hp]

theorem foldl_drawn_withPorts (items : List PixelItem) (s : State) (stream : StreamPort) (pulled : Nat)
    (responses : List ResponseWord) (busy : Bool) :
    items.foldl State.drawn (s.withPorts stream pulled responses busy) =
      (items.foldl State.drawn s).withPorts stream pulled responses busy := by
  induction items generalizing s with
  | nil => rfl
  | cons item items ih => rw [List.foldl_cons, drawn_withPorts, ih, List.foldl_cons]

/-- Drawing an item changes the trace, the D/C line and the environment alone. -/
theorem drawn_frame (s : State) (item : PixelItem) :
    ∃ w d v, s.drawn item = { s with trace := w, dcl := d, env := v } := by
  unfold State.drawn
  split
  · exact ⟨_, _, _, rfl⟩
  · exact ⟨s.trace, s.dcl, s.env, rfl⟩

theorem foldl_drawn_frame (items : List PixelItem) (s : State) :
    ∃ w d v, items.foldl State.drawn s = { s with trace := w, dcl := d, env := v } := by
  induction items generalizing s with
  | nil => exact ⟨s.trace, s.dcl, s.env, rfl⟩
  | cons item items ih =>
    obtain ⟨w, d, v, h⟩ := ih (s.drawn item)
    obtain ⟨w', d', v', hfirst⟩ := drawn_frame s item
    exact ⟨w, d, v, by rw [List.foldl_cons, h, hfirst]⟩

/-- An item under six successes (R192). -/
theorem drawItem_drawn {item : PixelItem} {s : State} (h : s.env.clear 6 = true) :
    drawItem item s = .ok (s.drawn item) := by
  unfold drawItem State.drawn
  split
  · exact memWrite_clear h
  · rfl

/-- Six verdicts are more than an item takes. -/
theorem clear_drawn {item : PixelItem} {n : Nat} {s : State} (h : s.env.clear (6 + n) = true) :
    (s.drawn item).env.clear n = true := by
  unfold State.drawn
  split
  · exact (clear_add.mp h).2
  · exact clear_mono h (Nat.le_add_left n 6)

/-- Items up to the end item, when no burst faults. -/
theorem drawItems_drawn {items : List PixelItem} {last : PixelItem} {s : State}
    (hi : items.all (fun t => !Item.isEnd t) = true) (hl : Item.isEnd last = true)
    (hv : s.env.clear (6 * items.length) = true) :
    ∃ stream pulled, drawItems (items ++ [last]) s =
      .ok ((items.foldl State.drawn s).withPorts stream pulled s.responses s.busy) := by
  induction items generalizing s with
  | nil => exact ⟨s.stream.drop 1, s.pulled + 1, if_pos hl⟩
  | cons item items ih =>
    obtain ⟨hend, hi⟩ : Item.isEnd item = false ∧ items.all (fun t => !Item.isEnd t) = true := by simpa using hi
    rw [List.length_cons, Nat.mul_succ, Nat.add_comm] at hv
    have hpull : s.pull 1 = s.withPorts (s.stream.drop 1) (s.pulled + 1) s.responses s.busy := rfl
    have hdraw : drawItem item (s.pull 1) = .ok ((s.pull 1).drawn item) := drawItem_drawn (clear_mono hv (by omega))
    obtain ⟨stream, pulled, h⟩ := ih (s := (s.pull 1).drawn item) hi (clear_drawn hv)
    refine ⟨stream, pulled, ?_⟩
    rw [List.cons_append, drawItems, hend, if_neg Bool.false_ne_true, hdraw, andThen_ok, h, hpull, drawn_withPorts,
      foldl_drawn_withPorts]
    rfl

/-- `DRAW_PIXELS` of any items and an end item, when no burst faults (R192). -/
theorem exec_drawPixels_drawn {items : List PixelItem} {last : PixelItem} {s t : State} (hs : s.serves = true)
    (hi : items.all (fun t => !Item.isEnd t) = true) (hl : Item.isEnd last = true)
    (hv : s.env.clear (6 * items.length) = true)
    (h : exec .drawPixels { s with stream := .pixels (items ++ [last]) } = .next t) :
    ∃ pulled, t = (items.foldl State.drawn s).withPorts .none pulled
      (s.responses ++ [responseWord .ok s.xfault s.phase]) false := by
  obtain ⟨stream, pulled, hdraw⟩ :=
    drawItems_drawn (s := s.withPorts (.pixels (items ++ [last])) s.pulled s.responses s.busy) hi hl hv
  rw [foldl_drawn_withPorts] at hdraw
  obtain ⟨w, d, v, hframe⟩ := foldl_drawn_frame items s
  have hexec := (runRequest_serves (operation := drawStream)
    (s := s.withPorts (.pixels (items ++ [last])) s.pulled s.responses s.busy) hs).trans (congrArg conclude hdraw)
  obtain rfl := Host.Outcome.next.inj (h.symm.trans hexec)
  rw [hframe]
  exact ⟨pulled, rfl⟩

/-- Settles O53: the items are drawn one after another, and the answer between them touches no more than the ports. -/
theorem drawPixelsIsItsItemsOneByOne : Obligations.DrawPixelsIsItsItemsOneByOne := by
  intro s t u v item last items hs hitem hi hl hv ht hu hw
  obtain ⟨p, rfl⟩ := exec_drawPixels_drawn (items := item :: items) hs (by simp [hitem, hi]) hl hv ht
  rw [Nat.mul_succ, Nat.add_comm] at hv
  obtain ⟨q, rfl⟩ := exec_drawPixels_drawn (items := [item]) hs (by simp [hitem]) hl (clear_add.mp hv).1 hu
  obtain ⟨w, d, e, hframe⟩ := drawn_frame s item
  have hserves : (s.drawn item).serves = true := by rw [hframe]; exact hs
  obtain ⟨r, rfl⟩ := exec_drawPixels_drawn
    (s := (s.drawn item).withPorts .none q (s.responses ++ [responseWord .ok s.xfault s.phase]) false)
    hserves hi hl (clear_drawn hv) hw
  rw [foldl_drawn_withPorts, hframe, List.foldl_cons, hframe]
  exact ⟨rfl, rfl⟩

end Sys2Proof.Machine
end

section
/-!
Bursts that fault (40_transport.md rules R110, R114 and R119). A wire command is a list of bursts, and a request begins with
one (`Opens`), so where either stops at a fault is said once for a list; the pixel burst of an image, which pulls from the
stream port, is said apart.
-/
namespace Sys2Proof.Machine

/-- An event of a list of complete bursts is the burst at its place. -/
theorem getElem?_of_map_completed {bs : List (Level × List Byte)} {k : Nat} {level : Level} {bytes : List Byte}
    (h : (bs.map completed)[k]? = some (.burst level bytes .complete)) : bs[k]? = some (level, bytes) := by
  rw [List.getElem?_map] at h
  obtain ⟨b, hb, he⟩ := Option.map_eq_some_iff.mp h
  cases he
  exact hb

theorem clear_one {v : Env} (h : v.verdict = .ok) : v.clear 1 = true := by
  unfold Env.clear
  unfold Env.verdict at h
  cases hb : v.bursts with
  | nil => rfl
  | cons b bs => simpa [hb] using h

/-! ### A wire command run by itself (R87) -/

/-- A wire command whose burst `k` is the first that does not complete, and faults (R114). -/
theorem exec_wire_fault {s : State} {i : Instr} {opcode : Byte} {payload : List Byte} {b : Level × List Byte}
    {k n ahead : Nat} (hc : cfgValid s.cfg = true) (hi : i.wellFormed s.cfg = true)
    (he : encodeWire s.cfg i = some (opcode, payload)) (hk : (wireBursts opcode payload)[k]? = some b)
    (hclear : s.env.clear k = true) (hv : (s.env.after k).verdict = .fault n ahead) :
    exec i s = .next { s with
      trace := s.trace ++ ((wireBursts opcode payload).take k).map completed ++ [.burst b.1 (b.2.take n) .faulted],
      dcl := b.1.line s.cfg, xfault := true, env := s.env.after (k + 1),
      directResults := s.directResults ++ [.transportError] } := by
  rw [exec_eq_wireBursts hc hi he, runBursts_fault hk hclear hv, concludeDirect_raise]

/-- Settles O24: the command is two bursts, and either of them may be the first that faults. -/
theorem faultedCommandsStopAtTheFault : Obligations.FaultedCommandsStopAtTheFault := by
  intro s i opcode b payload hc hi he
  refine ⟨fun n ahead hv => ?_, fun n ahead hok hv => ?_⟩
  · rw [exec_wire_fault hc hi he (k := 0) rfl (clear_zero _) hv]
    simp [Env.after, Level.line]
  · have hclear : s.env.clear 1 = true := clear_one hok
    rw [exec_wire_fault hc hi he (k := 1) rfl hclear (by rwa [← after_one])]
    simp [wireBursts, completed, cmd, Env.after, Level.line]

/-! ### Requests that begin with a list of bursts (R97) -/

/-- The bursts of `events` are the first thing the request `i` does. -/
def Opens (i : Instr) (s : State) (events : List Event) : Prop :=
  ∃ bs k, events = bs.map completed ∧ exec i s = conclude ((runBursts bs s).andThen k)

theorem opens_of_eq {i : Instr} {operation k : State → Flow} {s : State} {bs : List (Level × List Byte)}
    (hs : s.serves = true) (hi : exec i s = runRequest readyOnly operation s)
    (ho : operation s = (runBursts bs s).andThen k) : Opens i s (bs.map completed) :=
  ⟨bs, k, rfl, by rw [hi, runRequest_serves hs, ho]⟩

theorem opens_setOrientation {s : State} (hs : s.serves = true) (rotation : BitVec 2) :
    Opens (.setOrientation rotation) s [cmd s.cfg.opcMadctl, dat [madctl s.cfg rotation s.mir]] :=
  opens_of_eq (operation := orient rotation) hs rfl (congrArg (Flow.andThen · _) (commandWith_eq _ _ s))

/-- A request that is one `MemWrite` (R140). -/
theorem opens_memWrite {i : Instr} {operation : State → Flow} {s : State} {win : AddressWindow} {colors : List Color}
    (hs : s.serves = true) (hi : exec i s = runRequest readyOnly operation s)
    (ho : operation s = memWrite win colors s) : Opens i s (storeEvents s.cfg win (colorBytes colors)) :=
  opens_of_eq hs hi (ho.trans ((memWrite_eq win colors s).trans (andThen_okay _).symm))

theorem opens_clear {s : State} (hs : s.serves = true) (color : Color) :
    Opens (.clear color) s
      (storeEvents s.cfg s.fullWindow (colorBytes (List.replicate (s.pw.toNat * s.ph.toNat) color))) :=
  opens_memWrite (operation := clearScreen color) hs rfl rfl

theorem opens_fillRect {s : State} {xs xe ys ye : U16} (hs : s.serves = true) (color : Color)
    (hw : winOK s.rot s.pw.toNat s.ph.toNat xs.toNat xe.toNat ys.toNat ye.toNat = true) :
    Opens (.fillRect xs xe ys ye color) s
      (storeEvents s.cfg (s.translate xs.toNat ys.toNat (xe.toNat - xs.toNat + 1) (ye.toNat - ys.toNat + 1))
        (colorBytes (List.replicate ((xe.toNat - xs.toNat + 1) * (ye.toNat - ys.toNat + 1)) color))) :=
  opens_memWrite hs rfl (fillWindow_inside color hw)

/-- Of `DRAW_IMAGE`, the bursts before its pixel data (R194). -/
theorem opens_drawImage {s : State} {x y w h : U16} (hs : s.serves = true)
    (hr : rectOK s.rot s.pw.toNat s.ph.toNat x.toNat y.toNat w.toNat h.toNat = true) :
    Opens (.drawImage x y w h) s
      ((storeEvents s.cfg (s.translate x.toNat y.toNat w.toNat h.toNat) []).take 5) :=
  opens_of_eq (operation := drawImageRect x y w h) hs rfl ((drawImageRect_inside hr).trans (memWriteFromStream_eq _ _ s))

theorem opens_configureScroll {s : State} {top area bottom : U16} (hs : s.serves = true)
    (hsum : top.toNat + area.toNat + bottom.toNat = s.ph.toNat) :
    Opens (.configureScroll top area bottom) s
      [cmd s.cfg.opcVscrdef, dat [hi8 top, lo8 top, hi8 area, lo8 area, hi8 bottom, lo8 bottom]] :=
  opens_of_eq (operation := layoutScroll top area bottom) hs rfl
    ((if_pos hsum).trans (congrArg (Flow.andThen · _) (commandWith_eq _ _ s)))

theorem opens_setOffset {s : State} {offset : U16} (hs : s.serves = true) (hlt : offset.toNat < s.scr.area.toNat) :
    Opens (.setOffset offset) s [cmd s.cfg.opcVscsad, dat [hi8 offset, lo8 offset]] :=
  opens_of_eq (operation := moveOffset offset) hs rfl
    ((if_pos hlt).trans (congrArg (Flow.andThen · _) (commandWith_eq _ _ s)))

/-- A request ends at the first of its bursts that does not complete, if that one faults (R114). -/
theorem Opens.exec_fault {i : Instr} {s : State} {events : List Event} {k n ahead : Nat} {level : Level}
    {bytes : List Byte} (h : Opens i s events) (hk : events[k]? = some (.burst level bytes .complete))
    (hclear : s.env.clear k = true) (hv : (s.env.after k).verdict = .fault n ahead) :
    exec i s = .next { s with
      trace := s.trace ++ events.take k ++ [.burst level (bytes.take n) .faulted], dcl := level.line s.cfg,
      xfault := true,
      responses := s.responses ++ [responseWord .transportError true s.phase], busy := false, stream := .none,
      env := s.env.after (k + 1) } := by
  obtain ⟨bs, rest, rfl, hexec⟩ := h
  rw [hexec, runBursts_fault (getElem?_of_map_completed hk) hclear hv, andThen_raise, conclude_raise, respond,
    List.map_take]

/-- Settles O30: each of the six requests begins with the bursts of its events. -/
theorem faultedBurstEndsTheRequest : Obligations.FaultedBurstEndsTheRequest := by
  intro s i events k n ahead level bytes hs hk hclear hv hi
  have hopens : Opens i s events := by
    obtain ⟨rotation, rfl, rfl⟩ | ⟨color, rfl, rfl⟩ | ⟨xs, xe, ys, ye, color, rfl, hw, rfl⟩ |
      ⟨x, y, w, h, rfl, hr, rfl⟩ | ⟨top, area, bottom, rfl, hsum, rfl⟩ | ⟨offset, rfl, hlt, rfl⟩ := hi
    · exact opens_setOrientation hs rotation
    · exact opens_clear hs color
    · exact opens_fillRect hs color hw
    · exact opens_drawImage hs hr
    · exact opens_configureScroll hs hsum
    · exact opens_setOffset hs hlt
  exact hopens.exec_fault hk hclear hv

/-! ### The pixel burst of an image (R119) -/

theorem reach_le (total : Nat) (v : BurstVerdict) : v.reach total ≤ total := by
  cases v with
  | ok => exact le_rfl
  | fault sent ahead => exact Nat.min_le_right _ _
  | hang sent ahead => exact Nat.min_le_right _ _

/-- Where the stream holds the image, its pixels are one burst (R119). -/
theorem writePixelsFromStream_enough {n : Nat} {s : State} (hlen : 2 * n ≤ s.stream.byteItems.length) :
    writePixelsFromStream n s =
      burst .data (colorBytes (imageColors (s.stream.byteItems.take (2 * n))))
        (s.pull (s.env.verdict.pulls (2 * n) (2 * n))) := by
  have hheld : (s.stream.byteItems.take (2 * n)).length = 2 * n := List.length_take_of_le hlen
  have hwire : (colorBytes (imageColors (s.stream.byteItems.take (2 * n)))).length = 2 * n := by
    rw [length_colorBytes, length_imageColors, hheld, Nat.mul_div_cancel_left _ two_pos]
  simp only [writePixelsFromStream, hwire, hheld, if_neg (Nat.not_lt.mpr (reach_le _ _))]

/-- A pixel burst that faults, from a stream that holds the image. -/
theorem writePixelsFromStream_fault {n m ahead : Nat} {s : State} {bytes : List Byte} (hstream : s.stream = .bytes bytes)
    (hlen : 2 * n ≤ bytes.length) (hv : s.env.verdict = .fault m ahead) :
    writePixelsFromStream n s = .raise .transportError
      { (s.pull ((BurstVerdict.fault m ahead).pulls (2 * n) (2 * n))).cut .data
          (colorBytes (imageColors (bytes.take (2 * n)))) m .faulted with xfault := true } := by
  have hbytes : s.stream.byteItems = bytes := congrArg StreamPort.byteItems hstream
  rw [writePixelsFromStream_enough (by rwa [hbytes]), hbytes, hv, burst_fault (by exact hv)]

/-- A pixel burst that ends early has pulled both bytes of every pixel it has begun, and none beyond its image. -/
theorem pulls_bounds (n m ahead : Nat) :
    2 * ((min m (2 * n) + 1) / 2) ≤ (BurstVerdict.fault m ahead).pulls (2 * n) (2 * n) ∧
    (BurstVerdict.fault m ahead).pulls (2 * n) (2 * n) ≤ 2 * n := by
  simp only [BurstVerdict.pulls]
  omega

/-- Settles O32: the window and the opcode byte are sent, and what is left is the pixel burst. -/
theorem faultedImageStopsInsideItsPixels : Obligations.FaultedImageStopsInsideItsPixels := by
  intro s x y w h bytes n ahead total hs hr hstream hlen hclear hv
  obtain ⟨hlow, hhigh⟩ := pulls_bounds (w.toNat * h.toNat) n ahead
  have hpixels := writePixelsFromStream_fault (s := s.beforePixels (s.translate x.toNat y.toNat w.toNat h.toNat))
    hstream hlen hv
  have hexec := (runRequest_serves (operation := drawImageRect x y w h) hs).trans
    (congrArg conclude ((drawImageRect_inside hr).trans ((memWriteFromStream_clear hclear).trans hpixels)))
  exact ⟨_, hexec, rfl, rfl, rfl, Nat.add_le_add_left hlow _, Nat.add_le_add_left hhigh _⟩

end Sys2Proof.Machine
end

section
/-!
A transport or a delay provider that never returns (40_transport.md rules R115 and R117, 70_reset_and_hazards.md rule R316).
Forward: every request is a list of bursts with its ports left aside, `INIT` its reset pulse and two such lists. Backward:
a request that waits for ever has sent a delay or an unreported burst last (`Flow.Waits`), and a waiting block stays as it
is.
-/
namespace Sys2Proof.Machine

/-! ### The stream port left aside -/

/-- A state with what stands at its stream port forgotten. -/
def State.unported (s : State) : State := { s with stream := .none, pulled := 0 }

/-- A flow with what stands at the stream port forgotten in the state it ends in. -/
def Flow.unported : Flow → Flow
  | .ok s => .ok s.unported
  | .raise e s => .raise e s.unported
  | .stuck s => .stuck s.unported
  | .refuse r => .refuse r

theorem eq_of_unported_eq {s t : State} (h : s.unported = t.unported) :
    s = { t with stream := s.stream, pulled := s.pulled } := by
  have hs : s = { s.unported with stream := s.stream, pulled := s.pulled } := rfl
  rw [hs, h]
  rfl

theorem eq_stuck_of_unported {f : Flow} {t : State} (h : f.unported = (Flow.stuck t).unported) :
    ∃ stream pulled, f = .stuck { t with stream := stream, pulled := pulled } := by
  cases f with
  | ok s => cases h
  | raise e s => cases h
  | stuck s => exact ⟨s.stream, s.pulled, congrArg Flow.stuck (eq_of_unported_eq (Flow.stuck.inj h))⟩
  | refuse r => cases h

/-- What follows a flow may be replaced by what is the same with the ports left aside. -/
theorem andThen_unported_congr {f : Flow} {k k' : State → Flow}
    (h : ∀ t, f = .ok t → (k t).unported = (k' t).unported) : (f.andThen k).unported = (f.andThen k').unported := by
  cases f with
  | ok t => exact h t rfl
  | raise e t => rfl
  | stuck t => rfl
  | refuse r => rfl

/-- A burst does not look at the stream port, so neither does a list of them. -/
theorem runBursts_pull (bs : List (Level × List Byte)) (n : Nat) (s : State) :
    (runBursts bs (s.pull n)).unported = (runBursts bs s).unported := by
  induction bs generalizing s with
  | nil => rfl
  | cons b bs ih =>
    obtain ⟨hv, h⟩ | ⟨m, a, hv, h⟩ | ⟨m, a, hv, h⟩ := burst_cases b.1 b.2 s
    · rw [runBursts, runBursts, h, burst_ok (s := s.pull n) hv]
      exact ih (s.sent b.1 b.2)
    · rw [runBursts, runBursts, h, burst_fault (s := s.pull n) hv]
      rfl
    · rw [runBursts, runBursts, h, burst_hang (s := s.pull n) hv]
      rfl

/-- Bursts that all complete leave the registers and the stream port as they were. -/
theorem runBursts_ok_frame {bs : List (Level × List Byte)} {s t : State} (h : runBursts bs s = .ok t) :
    ∃ d v, t = { s with trace := s.trace ++ bs.map completed, dcl := d, env := v } := by
  have hends := runBursts_ends bs s
  rw [h] at hends
  exact hends

/-! ### The requests that pull from the stream port -/

/-- The bursts of one item of `DRAW_PIXELS` that is no end item (R192). -/
def itemBursts (s : State) (item : PixelItem) : List (Level × List Byte) :=
  if positionInside s.rot s.pw.toNat s.ph.toNat (Item.x item) (Item.y item) then
    storeBursts s.cfg (s.translate (Item.x item).toNat (Item.y item).toNat 1 1) (colorBytes [Item.color item])
  else []

theorem drawItem_eq (item : PixelItem) (s : State) : drawItem item s = runBursts (itemBursts s item) s := by
  unfold drawItem itemBursts
  split
  · exact memWrite_eq _ _ s
  · rfl

/-- The events of items are those of the ones inside the logical bounds. -/
theorem map_completed_itemBursts (s : State) (items : List PixelItem) :
    (items.flatMap (itemBursts s)).map completed =
      (items.filter fun t => positionInside s.rot s.pw.toNat s.ph.toNat (Item.x t) (Item.y t)).flatMap fun t =>
        storeEvents s.cfg (s.translate (Item.x t).toNat (Item.y t).toNat 1 1) [hi8 (Item.color t), lo8 (Item.color t)] := by
  induction items with
  | nil => rfl
  | cons item items ih =>
    rw [List.flatMap_cons, List.map_append, ih]
    simp only [List.filter_cons, itemBursts]
    split <;> rfl

/-- The items up to the end item are their bursts (R192). -/
theorem drawItems_unported {items rest : List PixelItem} {last : PixelItem} {s : State}
    (hi : items.all (fun t => !Item.isEnd t) = true) (hl : Item.isEnd last = true) :
    (drawItems (items ++ last :: rest) s).unported = (runBursts (items.flatMap (itemBursts s)) s).unported := by
  induction items generalizing s with
  | nil => rw [List.nil_append, drawItems, if_pos hl]; rfl
  | cons item items ih =>
    obtain ⟨hend, hi⟩ : Item.isEnd item = false ∧ items.all (fun t => !Item.isEnd t) = true := by simpa using hi
    rw [List.cons_append, drawItems, hend, if_neg Bool.false_ne_true, drawItem_eq, List.flatMap_cons,
      ← runBursts_pull _ 1 s, runBursts_append]
    refine andThen_unported_congr fun t ht => ?_
    obtain ⟨d, v, rfl⟩ := runBursts_ok_frame ht
    exact ih hi

/-- The pixel burst of an image is a burst where the stream holds the image (R119). -/
theorem writePixelsFromStream_unported {n : Nat} {s : State} (hlen : 2 * n ≤ s.stream.byteItems.length) :
    (writePixelsFromStream n s).unported =
      (runBursts [(.data, colorBytes (imageColors (s.stream.byteItems.take (2 * n))))] s).unported := by
  rw [writePixelsFromStream_enough hlen]
  exact (congrArg Flow.unported (andThen_okay _).symm).trans (runBursts_pull [(.data, _)] _ s)

/-- `MemWrite` from the byte stream is the bursts of the window and the write (R140, R194). -/
theorem memWriteFromStream_unported {win : AddressWindow} {n : Nat} {s : State}
    (hlen : 2 * n ≤ s.stream.byteItems.length) :
    (memWriteFromStream win n s).unported =
      (runBursts (storeBursts s.cfg win (colorBytes (imageColors (s.stream.byteItems.take (2 * n))))) s).unported := by
  rw [memWriteFromStream_eq, storeBursts_eq, runBursts_append]
  refine andThen_unported_congr fun t ht => ?_
  obtain ⟨d, v, rfl⟩ := runBursts_ok_frame ht
  exact writePixelsFromStream_unported hlen

/-! ### A burst of a request that is never reported (R115) -/

/-- With the stream port left aside, the bursts of `events` are the first thing the request `i` does. -/
def OpensAside (i : Instr) (s : State) (events : List Event) : Prop :=
  ∃ f bs k, events = bs.map completed ∧ exec i s = conclude f ∧ f.unported = ((runBursts bs s).andThen k).unported

theorem Opens.aside {i : Instr} {s : State} {events : List Event} (h : Opens i s events) : OpensAside i s events := by
  obtain ⟨bs, k, hevents, hexec⟩ := h
  exact ⟨_, bs, k, hevents, hexec, rfl⟩

theorem opensAside_of_unported {i : Instr} {operation : State → Flow} {s : State} {bs : List (Level × List Byte)}
    (hs : s.serves = true) (hi : exec i s = runRequest readyOnly operation s)
    (ho : (operation s).unported = (runBursts bs s).unported) : OpensAside i s (bs.map completed) :=
  ⟨operation s, bs, .ok, rfl, hi.trans (runRequest_serves hs), ho.trans (congrArg Flow.unported (andThen_okay _).symm)⟩

/-- Every request but `INIT` is the bursts it sends when it runs to its end. -/
theorem opensAside_of_sends {i : Instr} {s : State} {events : List Event} (hs : s.serves = true)
    (h : Sends s i events) : OpensAside i s events := by
  obtain ⟨rotation, rfl, rfl⟩ | ⟨color, rfl, rfl⟩ | ⟨items, last, rest, rfl, hstream, hi, hl, rfl⟩ |
    ⟨xs, xe, ys, ye, color, rfl, hw, rfl⟩ | ⟨x, y, w, h, bytes, rfl, hr, hstream, hlen, rfl⟩ |
    ⟨top, area, bottom, rfl, hsum, rfl⟩ | ⟨offset, rfl, hlt, rfl⟩ := h
  · exact (opens_setOrientation hs rotation).aside
  · exact (opens_clear hs color).aside
  · rw [← map_completed_itemBursts]
    refine opensAside_of_unported (operation := drawStream) hs rfl ?_
    rw [drawStream, hstream]
    exact drawItems_unported hi hl
  · exact (opens_fillRect hs color hw).aside
  · have hbytes : s.stream.byteItems = bytes := congrArg StreamPort.byteItems hstream
    subst hbytes
    refine opensAside_of_unported (operation := drawImageRect x y w h)
      (bs := storeBursts s.cfg (s.translate x.toNat y.toNat w.toNat h.toNat) _) hs rfl ?_
    rw [drawImageRect_inside hr]
    exact memWriteFromStream_unported hlen
  · exact (opens_configureScroll hs hsum).aside
  · exact (opens_setOffset hs hlt).aside

theorem OpensAside.exec_hang {i : Instr} {s : State} {events : List Event} {k n ahead : Nat} {level : Level}
    {bytes : List Byte} (h : OpensAside i s events) (hk : events[k]? = some (.burst level bytes .complete))
    (hclear : s.env.clear k = true) (hv : (s.env.after k).verdict = .hang n ahead) :
    ∃ stream pulled, exec i s = .next { s with
      trace := s.trace ++ events.take k ++ [.burst level (bytes.take n) .stalled], dcl := level.line s.cfg, busy := true,
      stream := stream, pulled := pulled, env := s.env.after (k + 1) } := by
  obtain ⟨f, bs, rest, rfl, hexec, hf⟩ := h
  rw [runBursts_hang (getElem?_of_map_completed hk) hclear hv, andThen_stuck, List.map_take] at hf
  obtain ⟨stream, pulled, rfl⟩ := eq_stuck_of_unported hf
  exact ⟨stream, pulled, hexec⟩

/-! ### `INIT` that never returns (R131, R240) -/

/-- The state the reset pulse leaves when the delay provider returns (R131). -/
def State.pulsed (s : State) : State :=
  { s with
    rstl := 1, trace := s.trace ++ [.rst 0, .dly s.cfg.tRstLowMs, .rst 1, .dly s.cfg.tRstSettleMs],
    env := { s.env with delays := s.env.delays.drop 2 } }

/-- The bursts of `INIT` before the acknowledge is sampled (R241). -/
def wakeBursts (s : State) : List (Level × List Byte) :=
  wireBursts s.cfg.opcSlpout [] ++ wireBursts s.cfg.opcColmod [s.cfg.colmod16bit]

/-- The bursts of `INIT` after the acknowledge is sampled (R241). -/
def showBursts (s : State) : List (Level × List Byte) :=
  wireBursts s.cfg.opcMadctl [madctl s.cfg s.rot s.mir] ++ wireBursts s.cfg.opcDispon []

theorem sleepOut_andThen_setColorMode (s : State) : (sleepOut s).andThen setColorMode = runBursts (wakeBursts s) s := by
  rw [wakeBursts, runBursts_append, sleepOut, sendCommand_eq]
  refine andThen_congr fun t ht => ?_
  rw [setColorMode, commandWith_eq, runBursts_cfg ht]
  rfl

theorem setMemoryAccessControl_andThen_displayOn (s : State) :
    (setMemoryAccessControl s.rot s.mir s).andThen displayOn = runBursts (showBursts s) s := by
  rw [showBursts, runBursts_append, setMemoryAccessControl, sendMadctl, commandWith_eq]
  refine andThen_congr fun t ht => ?_
  rw [displayOn, sendCommand_eq, runBursts_cfg ht]
  rfl

/-- The start-up sequence after its reset pulse: its bursts, and the sample between them (R240). -/
theorem startUp_returns {s : State} (h : s.env.returns 2 = true) :
    startUp s = (runBursts (wakeBursts s) s.pulsed).andThen fun t =>
      (sampleInitAck t).andThen fun u => runBursts (showBursts u) u := by
  have hpulse : resetSequence s = .ok s.pulsed := resetSequence_returns h
  rw [startUp, hpulse, andThen_ok, sleepOut_andThen_setColorMode, andThen_assoc, andThen_assoc]
  exact andThen_congr fun t _ => andThen_congr fun u _ =>
    setMemoryAccessControl_andThen_displayOn u

theorem initEvents_eq (s : State) :
    initEvents s = [.rst 0, .dly s.cfg.tRstLowMs, .rst 1, .dly s.cfg.tRstSettleMs] ++
      (wakeBursts s ++ showBursts s).map completed := rfl

/-- The event `4 + k` of `INIT` is its burst `k`. -/
theorem getElem?_initEvents {s : State} {k : Nat} {level : Level} {bytes : List Byte}
    (h : (initEvents s)[4 + k]? = some (.burst level bytes .complete)) :
    (wakeBursts s ++ showBursts s)[k]? = some (level, bytes) := by
  rw [Nat.add_comm] at h
  exact getElem?_of_map_completed h

theorem take_initEvents (s : State) (k : Nat) :
    (initEvents s).take (4 + k) = [.rst 0, .dly s.cfg.tRstLowMs, .rst 1, .dly s.cfg.tRstSettleMs] ++
      ((wakeBursts s ++ showBursts s).take k).map completed := by
  rw [initEvents_eq, List.map_take, Nat.add_comm]
  rfl

/-- The state the start-up sequence leaves once the acknowledge is given (R241). -/
def State.woken (s : State) : State :=
  { s with
    rstl := 1, trace := s.pulsed.trace ++ (wakeBursts s).map completed, dcl := s.cfg.dcData,
    env := { bursts := s.env.bursts.drop 3, delays := s.env.delays.drop 2, acks := s.env.acks.drop 1 } }

/-- The start-up sequence once the acknowledge is given (R241). -/
theorem startUp_acknowledged {s : State} (hr : s.env.returns 2 = true) (h3 : s.env.clear 3 = true)
    (hack : s.env.initAck = true) : startUp s = runBursts (showBursts s) s.woken := by
  have hwake := runBursts_clear (bs := wakeBursts s) (s := s.pulsed) h3
  rw [startUp_returns hr, hwake, andThen_ok, sampleInitAck_true (by exact hack)]
  rfl

/-- The burst `k` of the start-up sequence is the first that does not complete, and is never reported (R115). -/
theorem startUp_hang {s : State} {k n ahead : Nat} {level : Level} {bytes : List Byte} (hr : s.env.returns 2 = true)
    (hk : (initEvents s)[4 + k]? = some (.burst level bytes .complete)) (hclear : s.env.clear k = true)
    (hv : (s.env.after k).verdict = .hang n ahead) (hack : 3 ≤ k → s.env.initAck = true) :
    startUp s = .stuck { s with
      trace := s.trace ++ (initEvents s).take (4 + k) ++ [.burst level (bytes.take n) .stalled],
      rstl := 1, dcl := level.line s.cfg,
      env := { bursts := s.env.bursts.drop (k + 1), delays := s.env.delays.drop 2,
               acks := s.env.acks.drop (if 3 ≤ k then 1 else 0) } } := by
  have hburst := getElem?_initEvents hk
  have hlen : (wakeBursts s).length = 3 := rfl
  rw [take_initEvents]
  obtain hlt | hge := Nat.lt_or_ge k 3
  · rw [List.getElem?_append_left (hlen ▸ hlt)] at hburst
    rw [startUp_returns hr, runBursts_hang (s := s.pulsed) hburst hclear hv,
      List.take_append_of_le_length (hlen ▸ hlt.le), andThen_stuck, if_neg (Nat.not_le.mpr hlt)]
    simp [State.pulsed, Env.after]
  · obtain ⟨j, rfl⟩ := Nat.exists_eq_add_of_le hge
    obtain ⟨h3, hj⟩ := clear_add.mp hclear
    rw [List.getElem?_append_right (hlen ▸ hge), hlen, Nat.add_sub_cancel_left] at hburst
    rw [← after_after] at hv
    rw [startUp_acknowledged hr h3 (hack hge), runBursts_hang (s := s.woken) hburst hj hv, ← hlen,
      List.take_length_add_append, if_pos (hlen ▸ hge)]
    simp [State.woken, State.pulsed, Env.after, hlen, Nat.add_assoc]

/-- An `INIT` whose start-up sequence never returns (R316). -/
theorem exec_init_of_stuck {s t : State} (hc : cfgValid s.cfg = true) (hp : s.phase ≠ .dead)
    (h : startUp s = .stuck t) : exec .init s = .next { t with busy := true } := by
  have hallowed : initAllowed s.phase = true := by
    cases hph : s.phase with
    | uninit => rfl
    | ready => rfl
    | dead => exact absurd hph hp
  refine (runRequest_allowed hc hallowed).trans ?_
  rw [initialise, h, onRaise_stuck, andThen_stuck, conclude_stuck]

/-- The first delay of the reset pulse never returns (R117). -/
theorem startUp_first_delay {s : State} {delays : List Bool} (h : s.env.delays = false :: delays) :
    startUp s = .stuck { s with
      trace := s.trace ++ (initEvents s).take 2, rstl := 0, env := { s.env with delays := delays } } := by
  simp [startUp, resetSequence, setRST, delay, State.emit, Env.delayReturns, h, initEvents]

/-- The second delay of the reset pulse never returns (R117). -/
theorem startUp_second_delay {s : State} {delays : List Bool} (h : s.env.delays = true :: false :: delays) :
    startUp s = .stuck { s with
      trace := s.trace ++ (initEvents s).take 4, rstl := 1, env := { s.env with delays := delays } } := by
  simp [startUp, resetSequence, setRST, delay, State.emit, Env.delayReturns, h, initEvents]

/-! ### A wire command that is never reported (R115) -/

theorem exec_wire_hang {s : State} {i : Instr} {k n ahead : Nat} {level : Level} {bytes : List Byte}
    (hc : cfgValid s.cfg = true) (hi : i.wellFormed s.cfg = true)
    (hk : (wireEvents s.cfg i)[k]? = some (.burst level bytes .complete)) (hclear : s.env.clear k = true)
    (hv : (s.env.after k).verdict = .hang n ahead) :
    exec i s = .next { s with
      trace := s.trace ++ (wireEvents s.cfg i).take k ++ [.burst level (bytes.take n) .stalled],
      dcl := level.line s.cfg, busy := true, env := s.env.after (k + 1) } := by
  cases he : encodeWire s.cfg i with
  | none => simp [wireEvents, he] at hk
  | some word =>
    rw [wireEvents_eq he] at hk ⊢
    rw [exec_eq_wireBursts hc hi he, runBursts_hang (getElem?_of_map_completed hk) hclear hv, concludeDirect_stuck,
      List.map_take]

/-! ### A request that waits for ever (R316) -/

/-- The events a request can wait on for ever: a delay, and a burst the transport has not reported. -/
def Event.awaited : Event → Prop
  | .rst _ => False
  | .dly _ => True
  | .burst _ _ .complete => False
  | .burst _ _ .faulted => False
  | .burst _ _ .stalled => True

/-- The trace has grown, and its last event is one to wait on. -/
def StuckAfter (s t : State) : Prop := ∃ sent e, t.trace = s.trace ++ sent ++ [e] ∧ e.awaited

/-- A flow that, where it goes on, has kept the trace before it and, where it waits for ever, has sent an event to wait on
last. -/
def Flow.Waits (s : State) (f : Flow) : Prop := f.Ends (fun t => s.trace <+: t.trace) (fun _ _ => True) (StuckAfter s)

theorem Flow.Waits.andThen {s : State} {f : Flow} {k : State → Flow} (h : f.Waits s) (hk : ∀ t, (k t).Waits t) :
    (f.andThen k).Waits s := by
  refine Flow.Ends.andThen h fun t ht => ?_
  obtain ⟨w, hw⟩ := ht
  refine (hk t).mono (fun u hu => (List.prefix_append _ _).trans (hw ▸ hu)) (fun _ _ => id) ?_
  rintro u ⟨sent, e, hu, he⟩
  exact ⟨w ++ sent, e, by rw [hu, ← hw, List.append_assoc s.trace], he⟩

theorem ok_waits (s : State) : (Flow.ok s).Waits s := List.prefix_rfl

theorem burst_waits (level : Level) (bytes : List Byte) (s : State) : (burst level bytes s).Waits s := by
  obtain ⟨-, h⟩ | ⟨n, a, -, h⟩ | ⟨n, a, -, h⟩ := burst_cases level bytes s <;> rw [h]
  · exact List.prefix_append _ _
  · trivial
  · exact ⟨[], .burst level (bytes.take n) .stalled, by simp [State.cut], trivial⟩

theorem commandWith_waits (opcode : Byte) (payload : List Byte) (s : State) : (commandWith opcode payload s).Waits s :=
  (burst_waits _ _ s).andThen (burst_waits _ _)

theorem setAddressWindow_waits (win : AddressWindow) (s : State) : (setAddressWindow win s).Waits s :=
  (commandWith_waits _ _ s).andThen fun t => commandWith_waits _ _ t

theorem memWrite_waits (win : AddressWindow) (colors : List Color) (s : State) : (memWrite win colors s).Waits s :=
  (setAddressWindow_waits win s).andThen fun t => commandWith_waits _ _ t

theorem writePixelsFromStream_waits (n : Nat) (s : State) : (writePixelsFromStream n s).Waits s := by
  obtain h | ⟨bytes, pulled, h, -⟩ := writePixelsFromStream_cases n s <;> rw [h]
  · trivial
  · exact burst_waits .data bytes (s.pull pulled)

theorem memWriteFromStream_waits (win : AddressWindow) (n : Nat) (s : State) : (memWriteFromStream win n s).Waits s :=
  (setAddressWindow_waits win s).andThen fun t => (burst_waits _ _ t).andThen (writePixelsFromStream_waits n)

theorem drawItem_waits (item : PixelItem) (s : State) : (drawItem item s).Waits s := by
  unfold drawItem
  split
  · exact memWrite_waits _ _ s
  · exact ok_waits s

theorem drawItems_waits (items : List PixelItem) (s : State) : (drawItems items s).Waits s := by
  induction items generalizing s with
  | nil => trivial
  | cons item items ih =>
    unfold drawItems
    split
    · exact ok_waits s
    · exact Flow.Waits.andThen (s := s.pull 1) (drawItem_waits item (s.pull 1)) ih

theorem fillWindow_waits (xs xe ys ye : U16) (color : Color) (s : State) :
    (fillWindow xs xe ys ye color s).Waits s := by
  unfold fillWindow
  split
  · exact memWrite_waits _ _ s
  · trivial

theorem drawImageRect_waits (x y w h : U16) (s : State) : (drawImageRect x y w h s).Waits s := by
  unfold drawImageRect
  split
  · exact ok_waits s
  · split
    · exact memWriteFromStream_waits _ _ s
    · trivial

theorem orient_waits (rotation : BitVec 2) (s : State) : (orient rotation s).Waits s :=
  (commandWith_waits _ _ s).andThen ok_waits

theorem layoutScroll_waits (top area bottom : U16) (s : State) : (layoutScroll top area bottom s).Waits s := by
  unfold layoutScroll
  split
  · exact (commandWith_waits _ _ s).andThen ok_waits
  · trivial

theorem moveOffset_waits (offset : U16) (s : State) : (moveOffset offset s).Waits s := by
  unfold moveOffset
  split
  · exact (commandWith_waits _ _ s).andThen ok_waits
  · trivial

theorem setRST_waits (l : BitVec 1) (s : State) : (setRST l s).Waits s := List.prefix_append _ _

theorem delay_waits (ms : Nat) (s : State) : (delay ms s).Waits s := by
  unfold delay
  dsimp only
  split
  · exact List.prefix_append _ _
  · exact ⟨[], .dly ms, by simp, trivial⟩

theorem sampleInitAck_waits (s : State) : (sampleInitAck s).Waits s := by
  unfold sampleInitAck
  dsimp only
  split
  · exact ok_waits s
  · trivial

theorem resetSequence_waits (s : State) : (resetSequence s).Waits s :=
  (((setRST_waits 0 s).andThen fun t => delay_waits _ t).andThen (setRST_waits 1)).andThen fun t => delay_waits _ t

theorem startUp_waits (s : State) : (startUp s).Waits s :=
  (((((resetSequence_waits s).andThen fun t => burst_waits _ _ t).andThen fun t => commandWith_waits _ _ t).andThen
    sampleInitAck_waits).andThen fun t => commandWith_waits _ _ t).andThen fun t => burst_waits _ _ t

theorem initialise_waits (s : State) : (initialise s).Waits s := by
  have h := startUp_waits s
  unfold initialise
  cases hf : startUp s <;> rw [hf] at h
  case ok t => exact h
  case raise e t => trivial
  case stuck t => exact h
  case refuse r => trivial

theorem runRequest_waits {allowed : Phase → Bool} {operation : State → Flow} {s t : State} (ho : (operation s).Waits s)
    (h : runRequest allowed operation s = .next t) (hb : t.busy = true) : StuckAfter s t := by
  obtain ⟨-, ⟨-, rfl⟩ | ⟨-, ⟨u, -, rfl⟩ | ⟨e, u, -, rfl⟩ | ⟨u, hu, rfl⟩⟩⟩ := runRequest_next h
  · cases hb
  · cases hb
  · cases hb
  · rw [hu] at ho
    exact ho

/-- A request that is not answered has sent an event to wait on last. -/
theorem exec_waits {i : Instr} {s t : State} (hw : i.isWire = false) (h : exec i s = .next t) (hb : t.busy = true) :
    StuckAfter s t := by
  cases i with
  | init => exact runRequest_waits (initialise_waits s) h hb
  | setOrientation rotation => exact runRequest_waits (orient_waits rotation s) h hb
  | clear color => exact runRequest_waits (memWrite_waits _ _ s) h hb
  | drawPixels => exact runRequest_waits (drawItems_waits _ s) h hb
  | fillRect xs xe ys ye color => exact runRequest_waits (fillWindow_waits xs xe ys ye color s) h hb
  | drawImage x y w h' => exact runRequest_waits (drawImageRect_waits x y w h' s) h hb
  | configureScroll top area bottom => exact runRequest_waits (layoutScroll_waits top area bottom s) h hb
  | setOffset offset => exact runRequest_waits (moveOffset_waits offset s) h hb
  | sleepOut | setColorMode | setMemoryAccessControl mv mx | setAddressWindowColumns xs xe
  | setAddressWindowRows ys ye | memoryWrite colors | setScrollArea top middle bottom | setScrollOffset offset
  | displayOn => cases hw

/-- An instruction that leaves the block waiting gives no response and commits nothing (R316). -/
theorem exec_busy_keeps {i : Instr} {s t : State} (h : exec i s = .next t) (hb : t.busy = true) :
    t.responses = s.responses ∧ t.phase = s.phase ∧ t.rot = s.rot ∧ t.scr = s.scr := by
  by_cases hi : i = .init
  · subst hi
    obtain rfl | ⟨-, u, ⟨w, d, x, v, l, rfl⟩, rfl | rfl | rfl⟩ := exec_init_next h
    · cases hb
    · cases hb
    · cases hb
    · exact ⟨rfl, rfl, rfl, rfl⟩
  · obtain ⟨u, ⟨sent, d, v, stream, pulled, rfl⟩, rfl | ⟨e, rfl⟩ | rfl | ⟨results, rfl⟩⟩ := exec_next hi h
    · cases hb
    · cases hb
    · exact ⟨rfl, rfl, rfl, rfl⟩
    · exact ⟨rfl, rfl, rfl, rfl⟩

theorem StuckAfter.sent {s t : State} (h : StuckAfter s t) :
    ∃ sent, t.trace = s.trace ++ sent ∧
      ((∃ ms, sent.getLast? = some (.dly ms)) ∨ ∃ level bytes, sent.getLast? = some (.burst level bytes .stalled)) := by
  obtain ⟨sent, e, ht, he⟩ := h
  refine ⟨sent ++ [e], by rw [ht, List.append_assoc], ?_⟩
  rw [List.getLast?_concat]
  cases e with
  | rst l => cases he
  | dly ms => exact .inl ⟨ms, rfl⟩
  | burst level bytes ending =>
    cases ending with
    | complete => cases he
    | faulted => cases he
    | stalled => exact .inr ⟨level, bytes, rfl⟩

/-- A block that waits inside a request waits on, whatever the host presents but a block reset (R27, R316). -/
theorem step_waiting {t : State} (hc : cfgValid t.cfg = true) (hb : t.busy = true)
    (hin : ∀ rest, t.inbox ≠ .blockReset :: rest) : step t = .next t := by
  have hfetch : fetch t = waiting t := by rw [fetch, if_pos hc, if_pos hb]
  rw [step_eq_outcome, hfetch, waiting]
  split
  next rest hinbox => exact absurd hinbox (hin rest)
  next => rfl
  next => rfl

/-- A step of an idle block that leaves it waiting has accepted and run a request. -/
theorem step_idle_busy {s t : State} (hs : s.idle = true) (h : step s = .next t) (hb : t.busy = true) :
    ∃ d stream rest i, i.isWire = false ∧ exec i (accept d stream rest s) = .next t := by
  obtain ⟨-, hbusy, hd⟩ := idle_iff.mp hs
  obtain rfl | ⟨rest, -, rfl⟩ | ⟨d, stream, rest, -, rfl | ⟨i, hi, he⟩⟩ := step_next_of_no_direct hd h
  · exact absurd (hbusy.symm.trans hb) nofun
  · cases hb
  · cases hb
  · exact ⟨d, stream, rest, i, isWire_of_decodeRequest hi, he⟩

/-- Settles O35: forward, each instruction is its bursts and stops inside the one that is not reported, `INIT` also in
either delay; backward, only a request can leave an idle block waiting. -/
theorem requestThatNeverReturnsIsNeverAnswered : Obligations.RequestThatNeverReturnsIsNeverAnswered := by
  refine ⟨fun s i events k n ahead level bytes hs hi hk hclear hv => ?_,
    fun s k n ahead level bytes hc hp hr hk hclear hv hack => ?_, fun s delays hc hp => ⟨fun h => ?_, fun h => ?_⟩,
    fun s i k n ahead level bytes hc hi hk hclear hv => ?_, fun s t hs h hb => ?_⟩
  · exact (opensAside_of_sends hs hi).exec_hang hk hclear hv
  · exact exec_init_of_stuck hc hp (startUp_hang hr hk hclear hv hack)
  · exact exec_init_of_stuck hc hp (startUp_first_delay h)
  · exact exec_init_of_stuck hc hp (startUp_second_delay h)
  · exact exec_wire_hang hc hi hk hclear hv
  · obtain ⟨d, stream, rest, i, hi, he⟩ := step_idle_busy hs h hb
    obtain ⟨hresponses, hphase, hrot, hscr⟩ := exec_busy_keeps he hb
    have hc : cfgValid t.cfg = true := by rw [(exec_keeps_straps he).1]; exact (idle_iff.mp hs).1
    exact ⟨hresponses, hphase, hrot, hscr, (exec_waits hi he hb).sent, step_waiting hc hb⟩

end Sys2Proof.Machine
end

section
/-!
The wire commands run by themselves (41_register_protocol.md). No argument is validated (R130), so every one of them but a
memory write with no colour is the bursts of its encoding, well formed or not; what such a command leaves is then read off
the laws of a list of bursts.
-/
namespace Sys2Proof.Machine

/-! ### Any operands (R130) -/

/-- A memory write with no colour is refused (R136). -/
theorem exec_memoryWrite_nil {s : State} (hc : cfgValid s.cfg = true) :
    exec (.memoryWrite []) s = .refused .emptyPixelList := if_pos hc

/-- The meaning of a wire command is the bursts of its encoding, also for a window half that is not well formed. -/
theorem exec_eq_wireBursts_of_ne {s : State} {i : Instr} {opcode : Byte} {payload : List Byte}
    (hc : cfgValid s.cfg = true) (hi : i ≠ .memoryWrite []) (he : encodeWire s.cfg i = some (opcode, payload)) :
    exec i s = concludeDirect (runBursts (wireBursts opcode payload) s) := by
  cases i
  case setAddressWindowColumns xs xe | setAddressWindowRows ys ye =>
    cases he
    exact (if_pos hc).trans (congrArg concludeDirect (commandWith_eq _ _ s))
  case memoryWrite colors => exact exec_eq_wireBursts hc (by simpa [Instr.wellFormed] using hi) he
  all_goals exact exec_eq_wireBursts hc rfl he

/-! ### Commands that run to their end -/

/-- Settles O22: the command is the one burst of its opcode. -/
theorem plainCommandsAreOneOpcodeByte : Obligations.PlainCommandsAreOneOpcodeByte := by
  intro s i opcode hc hi
  obtain ⟨hwf, he⟩ : i.wellFormed s.cfg = true ∧ encodeWire s.cfg i = some (opcode, []) := by
    obtain ⟨rfl, rfl⟩ | ⟨rfl, rfl⟩ := hi <;> exact ⟨rfl, rfl⟩
  refine ⟨fun hv => ?_, fun n ahead hv => ?_⟩
  · rw [exec_eq_wireBursts hc hwf he, wireBursts, ← sendCommand_eq, sendCommand_clear (clear_one hv), concludeDirect_ok]
    simp [Env.after]
  · rw [exec_wire_fault hc hwf he (k := 0) rfl (clear_zero _) hv]
    simp [Env.after, Level.line]

/-- A command with a payload whose two bursts complete (R87). -/
theorem exec_payload_clear {s : State} {i : Instr} {opcode : Byte} {payload : List Byte} (hc : cfgValid s.cfg = true)
    (hv : s.env.clear 2 = true) (he : encodeWire s.cfg i = some (opcode, payload)) (hp : payload ≠ []) :
    exec i s = .next { s with
      trace := s.trace ++ [cmd opcode, dat payload], dcl := s.cfg.dcData, env := s.env.after 2,
      directResults := s.directResults ++ [.ok] } := by
  have hi : i ≠ .memoryWrite [] := by rintro rfl; cases he; exact hp rfl
  obtain ⟨b, bytes, rfl⟩ := List.exists_cons_of_ne_nil hp
  rw [exec_eq_wireBursts_of_ne hc hi he, wireBursts, ← commandWith_eq, commandWith_clear hv, concludeDirect_ok]

theorem colorBytes_eq_flatMap (colors : List Color) :
    colorBytes colors = colors.flatMap fun col => [hi8 col, lo8 col] := by
  induction colors with
  | nil => rfl
  | cons col colors ih => rw [colorBytes, ih, List.flatMap_cons]; rfl

/-- Settles O23: each form is its encoding (R88 to R91), whose payload is not empty. -/
theorem commandsWithPayloadSendTheirBytes : Obligations.CommandsWithPayloadSendTheirBytes := by
  intro s i opcode payload hc hv hi
  obtain ⟨he, hp⟩ : encodeWire s.cfg i = some (opcode, payload) ∧ payload ≠ [] := by
    obtain ⟨rfl, rfl, rfl⟩ | ⟨mv, mx, rfl, rfl, rfl⟩ | ⟨xs, xe, rfl, rfl, rfl⟩ | ⟨ys, ye, rfl, rfl, rfl⟩ |
      ⟨colors, rfl, hne, rfl, rfl⟩ | ⟨top, middle, bottom, rfl, rfl, rfl⟩ | ⟨offset, rfl, rfl, rfl⟩ := hi
    case inr.inr.inr.inr.inl => -- `memory_write`, whose length is its operand's
      refine ⟨by rw [← colorBytes_eq_flatMap]; rfl, ?_⟩
      obtain ⟨col, colors, rfl⟩ := List.exists_cons_of_ne_nil hne
      exact List.cons_ne_nil _ _
    all_goals exact ⟨rfl, List.cons_ne_nil _ _⟩
  exact exec_payload_clear hc hv he hp

/-! ### What a command leaves, however it ends (R115, R130) -/

/-- A wire command that gives a next state has a valid configuration and is a list of bursts. -/
theorem exec_wire_next {s t : State} {i : Instr} (hw : i.isWire = true) (h : exec i s = .next t) :
    ∃ bs, concludeDirect (runBursts bs s) = .next t := by
  have hc : cfgValid s.cfg = true := by
    obtain ⟨operation, he⟩ := exec_wire hw
    exact (runDirect_next ((he s).symm.trans h)).1
  have hi : i ≠ .memoryWrite [] := by
    rintro rfl
    rw [exec_memoryWrite_nil hc] at h
    cases h
  obtain ⟨opcode, payload, he⟩ := encodeWire_of_isWire hw s.cfg
  exact ⟨wireBursts opcode payload, by rw [← exec_eq_wireBursts_of_ne hc hi he, h]⟩

/-- Settles O39: a list of bursts changes what the statement names and no more, and only one that stops inside a burst
never reported leaves `BUSY` at 1. -/
theorem wireCommandsKeepTheRegisters : Obligations.WireCommandsKeepTheRegisters := by
  intro s t i hw h
  obtain ⟨bs, h⟩ := exec_wire_next hw h
  have hends := runBursts_ends bs s
  cases hf : runBursts bs s with
  | ok u =>
    rw [hf] at h hends
    obtain ⟨d, v, rfl⟩ := hends
    cases h
    exact ⟨bs.map completed, rfl, .inl rfl⟩
  | raise e u =>
    rw [hf] at h hends
    obtain ⟨-, -, before, b, after, n, d, x, v, -, rfl⟩ := hends
    cases h
    exact ⟨before.map completed ++ [.burst b.1 (b.2.take n) .faulted], by simp, .inl rfl⟩
  | stuck u =>
    rw [hf] at h hends
    obtain ⟨-, before, b, after, n, d, x, v, -, rfl⟩ := hends
    cases h
    exact ⟨before.map completed ++ [.burst b.1 (b.2.take n) .stalled], by simp,
      .inr ⟨rfl, b.1, b.2.take n, List.getLast?_concat⟩⟩
  | refuse r =>
    rw [hf] at h
    cases h

end Sys2Proof.Machine
end

section
/-!
The orientation (42_orientation_addressing.md): `SET_ORIENTATION` and what the control requests leave alone, the
orientation byte, and the window mapper. The tables of `Translate` and `Untranslate` (R164, R165) are one relation
between a rectangle and a window, `MapsTo`; the laws of the mapper are facts about that relation.
-/
namespace Sys2Proof.Machine

/-! ### `SET_ORIENTATION` (R168) -/

/-- Settles O15: two successes complete the orientation command, and the commit and the answer follow. -/
theorem setOrientationSendsItsByteAndCommits : Obligations.SetOrientationSendsItsByteAndCommits := by
  intro s rotation hs hv
  calc exec (.setOrientation rotation) s
    _ = conclude (orient rotation s) := runRequest_serves hs
    _ = _ := by rw [orient, setMemoryAccessControl, sendMadctl, commandWith_clear hv]; rfl

/-! ### What the control requests leave alone (R168, R220, R221, R240) -/

/-- A flow that sends bursts, pulls nothing from the stream and, where it succeeds, commits what `i` commits. -/
def Flow.SendsThenCommits (i : Instr) (s : State) (f : Flow) : Prop :=
  f.Ends (fun t => ∃ u, Emits s u ∧ t = commitOf i u) (fun _ => Emits s) (Emits s)

theorem Flow.Transports.andThen_commit {i : Instr} {s : State} {f : Flow} (h : f.Transports s) :
    (f.andThen fun t => .ok (commitOf i t)).SendsThenCommits i s :=
  Flow.Ends.andThen (h.mono (fun _ => id) (fun _ _ ⟨_, ht, _⟩ => ht) fun _ => id) fun t ht => ⟨t, ht, rfl⟩

theorem orient_sendsThenCommits (rotation : BitVec 2) (s : State) :
    (orient rotation s).SendsThenCommits (.setOrientation rotation) s :=
  (setMemoryAccessControl_transports _ _ s).andThen_commit

theorem layoutScroll_sendsThenCommits (top area bottom : U16) (s : State) :
    (layoutScroll top area bottom s).SendsThenCommits (.configureScroll top area bottom) s := by
  unfold layoutScroll
  split
  · exact (commandWith_transports _ _ s).andThen_commit
  · exact Emits.refl s

theorem moveOffset_sendsThenCommits (offset : U16) (s : State) :
    (moveOffset offset s).SendsThenCommits (.setOffset offset) s := by
  unfold moveOffset
  split
  · exact (commandWith_transports _ _ s).andThen_commit
  · exact Emits.refl s

/-- The states a request that only sends and commits can leave: answered `Ok` with its commit, answered an error without
it, or waiting for ever (R97, R316). -/
def LeavesUnpulled (i : Instr) (s t : State) : Prop :=
  ∃ u, Emits s u ∧ (t = respond .ok (commitOf i u) ∨ (∃ e, t = respond e u) ∨ t = { u with busy := true })

theorem runRequest_leavesUnpulled {i : Instr} {allowed : Phase → Bool} {operation : State → Flow} {s t : State}
    (ho : (operation s).SendsThenCommits i s) (h : runRequest allowed operation s = .next t) :
    LeavesUnpulled i s t := by
  obtain ⟨-, ⟨-, rfl⟩ | ⟨-, ⟨u, hu, rfl⟩ | ⟨e, u, hu, rfl⟩ | ⟨u, hu, rfl⟩⟩⟩ := runRequest_next h
  · exact ⟨s, .refl s, .inr (.inl ⟨.notReady, rfl⟩)⟩
  all_goals rw [hu] at ho
  · obtain ⟨v, hv, rfl⟩ := ho
    exact ⟨v, hv, .inl rfl⟩
  · exact ⟨u, ho, .inr (.inl ⟨e, rfl⟩)⟩
  · exact ⟨u, ho, .inr (.inr rfl)⟩

theorem exec_scroll_next {i : Instr} {s t : State} (hi : isScroll i = true) (h : exec i s = .next t) :
    LeavesUnpulled i s t := by
  cases i
  case configureScroll top area bottom =>
    exact runRequest_leavesUnpulled (layoutScroll_sendsThenCommits top area bottom s) h
  case setOffset offset => exact runRequest_leavesUnpulled (moveOffset_sendsThenCommits offset s) h
  all_goals cases hi

/-- The scroll requests commit the scroll shadow and nothing else (R223). -/
theorem commitOf_scroll {i : Instr} (hi : isScroll i = true) (s : State) :
    ∃ scr, commitOf i s = { s with scr := scr } := by
  cases i
  case configureScroll top area bottom => exact ⟨_, rfl⟩
  case setOffset offset => exact ⟨_, rfl⟩
  all_goals cases hi

/-- Settles O38: what was sent changes no register but `XFAULT` and `DCL`, the commit only the one it names, the end of
the request only the ports; the start-up sequence of `INIT` also moves the reset line. -/
theorem controlRequestsKeepTheOtherRegisters : Obligations.ControlRequestsKeepTheOtherRegisters := by
  refine ⟨fun s t rotation h => ?_, fun s t i hi h => ?_, fun s t h => ?_⟩
  · obtain ⟨u, ⟨w, d, x, v, rfl⟩, rfl | ⟨e, rfl⟩ | rfl⟩ :=
      runRequest_leavesUnpulled (orient_sendsThenCommits rotation s) h
    · exact ⟨w, rfl, .inr rfl⟩
    · exact ⟨w, rfl, .inl rfl⟩
    · exact ⟨w, rfl, .inl rfl⟩
  · obtain ⟨u, hu, ht⟩ := exec_scroll_next hi h
    obtain ⟨scr, hscr⟩ := commitOf_scroll hi u
    rw [hscr] at ht
    obtain ⟨w, d, x, v, rfl⟩ := hu
    obtain rfl | ⟨e, rfl⟩ | rfl := ht <;> exact ⟨w, rfl⟩
  · obtain rfl | ⟨-, u, ⟨w, d, x, v, l, rfl⟩, rfl | rfl | rfl⟩ := exec_init_next h
    · exact ⟨[], by rw [List.append_nil]; rfl⟩
    all_goals exact ⟨w, rfl⟩

/-! ### The orientation byte (R90, R160, R161) -/

/-- Each mask reads its own flag back from the byte (R90). -/
theorem madctlByte_and_masks {c : Cfg} (h : cfgValid c = true) (mv mx : Bool) :
    (madctlByte c mv mx &&& c.madctlMv ≠ 0 ↔ mv = true) ∧ (madctlByte c mv mx &&& c.madctlMx ≠ 0 ↔ mx = true) := by
  have hdecode := decodeMadctl_madctlByte h mv mx
  unfold decodeMadctl at hdecode
  dsimp only at hdecode
  split at hdecode
  · injection hdecode with hdecode
    injection hdecode with hmv hmx
    exact ⟨by rw [← bne_iff_ne, hmv], by rw [← bne_iff_ne, hmx]⟩
  · cases hdecode

/-- The bits outside the masks are those of `MADCTL_BASE`, which has none inside them (R7, R90). -/
theorem madctlByte_and_not_masks {c : Cfg} (h : cfgValid c = true) (mv mx : Bool) :
    madctlByte c mv mx &&& ~~~(c.madctlMv ||| c.madctlMx) = c.madctlBase := by
  obtain ⟨-, -, -, hbv, hbx⟩ := masks_valid h
  apply BitVec.eq_of_getLsbD_eq
  intro k hk
  have hv : (c.madctlBase.getLsbD k && c.madctlMv.getLsbD k) = false := by
    rw [← BitVec.getLsbD_and, hbv, BitVec.ofNat_eq_ofNat, BitVec.getLsbD_zero]
  have hx : (c.madctlBase.getLsbD k && c.madctlMx.getLsbD k) = false := by
    rw [← BitVec.getLsbD_and, hbx, BitVec.ofNat_eq_ofNat, BitVec.getLsbD_zero]
  rw [BitVec.getLsbD_and, BitVec.getLsbD_not, BitVec.getLsbD_or, decide_eq_true hk, Bool.true_and]
  have hbyte : (madctlByte c mv mx).getLsbD k =
      (c.madctlBase.getLsbD k || mv && c.madctlMv.getLsbD k || mx && c.madctlMx.getLsbD k) := by
    cases mv <;> cases mx <;> simp [madctlByte]
  rw [hbyte]
  clear hbyte
  revert hv hx
  generalize c.madctlBase.getLsbD k = base, c.madctlMv.getLsbD k = bitMv, c.madctlMx.getLsbD k = bitMx
  revert base bitMv bitMx mv mx
  decide

theorem flagMV_iff (rot : BitVec 2) : flagMV rot = true ↔ rot = 1 ∨ rot = 3 := by
  revert rot
  decide

theorem flagMX_iff (rot : BitVec 2) (mir : Bool) :
    flagMX rot mir = true ↔ ((rot = 2 ∨ rot = 3) ↔ mir = false) := by
  revert rot mir
  decide

/-- Settles O49: the masks read back the two flags of the rotation, and the rest is the base. -/
theorem orientationByteFlags : Obligations.OrientationByteFlags := by
  intro c rot mir hc
  obtain ⟨hmv, hmx⟩ := madctlByte_and_masks hc (flagMV rot) (flagMX rot mir)
  exact ⟨hmv.trans (flagMV_iff rot), hmx.trans (flagMX_iff rot mir), madctlByte_and_not_masks hc _ _⟩

/-- Settles O48: each byte is the default base with the masks of its flags. -/
theorem orientationByteTable : Obligations.OrientationByteTable := by
  unfold Obligations.OrientationByteTable
  decide

/-! ### The two bounds checks (R162) -/

theorem winOK_iff {rot : BitVec 2} {pw ph xs xe ys ye : Nat} :
    winOK rot pw ph xs xe ys ye = true ↔
      xs ≤ xe ∧ ys ≤ ye ∧ xe < logicalWidth rot pw ph ∧ ye < logicalHeight rot pw ph := by
  simp [winOK, and_assoc]

/-- Settles O47: `xe < LW` is `xs + (xe - xs + 1) ≤ LW` where `xs ≤ xe`, and so for the rows. -/
theorem winOKIsRectOKOfTheCoveredRectangle : Obligations.WinOKIsRectOKOfTheCoveredRectangle := by
  intro rot pw ph xs xe ys ye
  refine ⟨fun hx hy => ?_, fun hinv => ?_⟩
  · rw [Bool.eq_iff_iff, winOK_iff, rectOK_iff]
    omega
  · rw [Bool.eq_false_iff, ne_eq, winOK_iff]
    omega

/-! ### The tables of the mapper as one relation (R164, R165) -/

theorem windowPhysical_iff {pw ph : Nat} {win : AddressWindow} :
    windowPhysical pw ph win = true ↔
      win.xStart.toNat ≤ win.xEnd.toNat ∧ win.xEnd.toNat < pw ∧
      win.yStart.toNat ≤ win.yEnd.toNat ∧ win.yEnd.toNat < ph := by
  simp [windowPhysical, and_assoc]

theorem AddressWindow.eq_of_toNat_eq {win win' : AddressWindow} (hxs : win.xStart.toNat = win'.xStart.toNat)
    (hxe : win.xEnd.toNat = win'.xEnd.toNat) (hys : win.yStart.toNat = win'.yStart.toNat)
    (hye : win.yEnd.toNat = win'.yEnd.toNat) : win = win' := by
  cases win
  cases win'
  simp only [AddressWindow.mk.injEq, BitVec.toNat_eq]
  exact ⟨hxs, hxe, hys, hye⟩

/-- The row of the tables for each rotation; the senses differ at 90° and 270° (R164). -/
theorem mapperRow_eq (sense : RotSense) (rot : BitVec 2) :
    (rot = 0 → mapperRow sense rot = 0) ∧ (rot = 2 → mapperRow sense rot = 2) ∧
    ((rot = 1 ∧ sense = .cw) ∨ (rot = 3 ∧ sense = .ccw) → mapperRow sense rot = 1) ∧
    ((rot = 3 ∧ sense = .cw) ∨ (rot = 1 ∧ sense = .ccw) → mapperRow sense rot = 3) := by
  cases sense <;> revert rot <;> decide

/-- The rows in which the logical extent is the panel's and those in which it is the panel's exchanged (R23, R164). -/
theorem mapperRow_logical (sense : RotSense) (rot : BitVec 2) (pw ph : Nat) :
    ((mapperRow sense rot = 0 ∨ mapperRow sense rot = 2) ∧
      logicalWidth rot pw ph = pw ∧ logicalHeight rot pw ph = ph) ∨
    ((mapperRow sense rot = 1 ∨ mapperRow sense rot = 3) ∧
      logicalWidth rot pw ph = ph ∧ logicalHeight rot pw ph = pw) := by
  unfold logicalWidth logicalHeight
  obtain ⟨hrot, hrow⟩ | ⟨hrot, hrow⟩ := mapperRow_parity sense rot <;> rw [hrot]
  · exact .inl ⟨hrow, rfl, rfl⟩
  · exact .inr ⟨hrow, rfl, rfl⟩

/-- A rectangle and a window that stand in a row of the tables (numbered as `mapperRow` does): R164 and R165 are this
relation solved for the window and for the rectangle. No equation subtracts, so none of them is cut off at 0. -/
def MapsTo (row pw ph : Nat) (r : Rect) (win : AddressWindow) : Prop :=
  let xs := win.xStart.toNat
  let xe := win.xEnd.toNat
  let ys := win.yStart.toNat
  let ye := win.yEnd.toNat
  match row with
  | 0 => xs = r.x ∧ xe + 1 = r.x + r.w ∧ ys = r.y ∧ ye + 1 = r.y + r.h
  | 1 => xs + r.y + r.h = pw ∧ xe + r.y + 1 = pw ∧ ys = r.x ∧ ye + 1 = r.x + r.w
  | 2 => xs + r.x + r.w = pw ∧ xe + r.x + 1 = pw ∧ ys + r.y + r.h = ph ∧ ye + r.y + 1 = ph
  | _ => xs = r.y ∧ xe + 1 = r.y + r.h ∧ ys + r.x + r.w = ph ∧ ye + r.x + 1 = ph

section
variable {sense : RotSense} {rot : BitVec 2} {row pw ph : Nat} {r r' : Rect} {win win' : AddressWindow}

theorem MapsTo.rect_unique (h : MapsTo row pw ph r win) (h' : MapsTo row pw ph r' win) : r = r' := by
  cases r
  cases r'
  rw [Rect.mk.injEq]
  rcases row with _ | _ | _ | row <;> simp only [MapsTo] at h h' <;> omega

theorem MapsTo.window_unique (h : MapsTo row pw ph r win) (h' : MapsTo row pw ph r win') : win = win' := by
  rcases row with _ | _ | _ | row <;> simp only [MapsTo] at h h' <;> apply AddressWindow.eq_of_toNat_eq <;> omega

/-- The rectangle is inside the logical bounds exactly where the window is inside the panel. -/
theorem MapsTo.rectOK_iff_windowPhysical (h : MapsTo (mapperRow sense rot) pw ph r win) :
    rectOK rot pw ph r.x r.y r.w r.h = true ↔ windowPhysical pw ph win = true := by
  rw [rectOK_iff, windowPhysical_iff]
  obtain ⟨hrow | hrow, hlw, hlh⟩ | ⟨hrow | hrow, hlw, hlh⟩ := mapperRow_logical sense rot pw ph <;>
    · simp only [hrow, MapsTo] at h
      omega

/-- The extent of the window is that of the rectangle, exchanged at 90° and 270° (R167). -/
theorem MapsTo.extent (h : MapsTo (mapperRow sense rot) pw ph r win) (hwin : windowPhysical pw ph win = true) :
    (win.xEnd.toNat - win.xStart.toNat + 1, win.yEnd.toNat - win.yStart.toNat + 1) =
      if rot.getLsbD 0 then (r.h, r.w) else (r.w, r.h) := by
  rw [windowPhysical_iff] at hwin
  obtain ⟨hrot, hrow | hrow⟩ | ⟨hrot, hrow | hrow⟩ := mapperRow_parity sense rot <;>
    · simp only [hrow, MapsTo] at h
      simp only [hrot, if_true, Bool.false_eq_true, if_false, Prod.mk.injEq]
      omega

/-- `Translate` solves the row for the window (R164). -/
theorem mapsTo_translateRect (hpw : pw < 65536) (hph : ph < 65536) {x y w h : Nat}
    (hr : rectOK rot pw ph x y w h = true) :
    MapsTo (mapperRow sense rot) pw ph { x := x, y := y, w := w, h := h } (translateRect sense rot pw ph x y w h) := by
  rw [rectOK_iff] at hr
  unfold translateRect
  obtain ⟨hrow | hrow, hlw, hlh⟩ | ⟨hrow | hrow, hlw, hlh⟩ := mapperRow_logical sense rot pw ph <;>
    · simp (disch := omega) only [hrow, MapsTo, windowOf, BitVec.toNat_ofNat, Nat.mod_eq_of_lt, true_and]
      omega

/-- `Untranslate` solves the row for the rectangle (R165). -/
theorem mapsTo_untranslateWindow (h : windowPhysical pw ph win = true) :
    MapsTo (mapperRow sense rot) pw ph (untranslateWindow sense rot pw ph win) win := by
  rw [windowPhysical_iff] at h
  unfold untranslateWindow
  obtain ⟨-, hrow | hrow⟩ | ⟨-, hrow | hrow⟩ := mapperRow_parity sense rot <;>
    · simp only [hrow, MapsTo, true_and]
      omega

end

section
variable {sense : RotSense} {rot : BitVec 2} {pw ph : U16} {x y w h : Nat}

theorem windowPhysical_translateRect (hr : rectOK rot pw.toNat ph.toNat x y w h = true) :
    windowPhysical pw.toNat ph.toNat (translateRect sense rot pw.toNat ph.toNat x y w h) = true :=
  (mapsTo_translateRect pw.isLt ph.isLt hr).rectOK_iff_windowPhysical.mp hr

/-- A window that stands in the row of a rectangle inside the bounds is its translation. -/
theorem MapsTo.translateRect_eq {win : AddressWindow}
    (hm : MapsTo (mapperRow sense rot) pw.toNat ph.toNat { x := x, y := y, w := w, h := h } win)
    (hr : rectOK rot pw.toNat ph.toNat x y w h = true) :
    translateRect sense rot pw.toNat ph.toNat x y w h = win :=
  (mapsTo_translateRect pw.isLt ph.isLt hr).window_unique hm

end

/-! ### The laws of the mapper (R163 to R165, R167) -/

/-- Settles O43: both rectangles stand in one row with the window, and the row has one rectangle for it. -/
theorem untranslateUndoesTranslate : Obligations.UntranslateUndoesTranslate :=
  fun _ _ pw ph _ _ _ _ hr =>
    (mapsTo_untranslateWindow (windowPhysical_translateRect hr)).rect_unique (mapsTo_translateRect pw.isLt ph.isLt hr)

/-- Settles O44: the row that the rotation selects, solved for the four bounds. -/
theorem translateFollowsItsTable : Obligations.TranslateFollowsItsTable := by
  intro sense rot pw ph x y w h hr
  dsimp only
  have hphysical := windowPhysical_translateRect (sense := sense) hr
  have hm := mapsTo_translateRect (sense := sense) pw.isLt ph.isLt hr
  obtain ⟨hw, hh, -, -⟩ := rectOK_iff.mp hr
  obtain ⟨h0, h2, h1, h3⟩ := mapperRow_eq sense rot
  simp only [Prod.mk.injEq]
  refine ⟨hphysical, fun hrot => ?_, fun hrot => ?_, fun hrot => ?_, fun hrot => ?_⟩
  · simp only [h0 hrot, MapsTo] at hm
    omega
  · simp only [h2 hrot, MapsTo] at hm
    omega
  · simp only [h1 hrot, MapsTo] at hm
    omega
  · simp only [h3 hrot, MapsTo] at hm
    omega

/-- The whole logical screen stands in every row with the whole panel (R167). -/
theorem mapsTo_fullScreen (sense : RotSense) (rot : BitVec 2) {pw ph : U16} (hpw : 0 < pw.toNat) (hph : 0 < ph.toNat) :
    MapsTo (mapperRow sense rot) pw.toNat ph.toNat
      { x := 0, y := 0, w := logicalWidth rot pw.toNat ph.toNat, h := logicalHeight rot pw.toNat ph.toNat }
      (windowOf 0 (pw.toNat - 1) 0 (ph.toNat - 1)) := by
  obtain ⟨hrow | hrow, hlw, hlh⟩ | ⟨hrow | hrow, hlw, hlh⟩ := mapperRow_logical sense rot pw.toNat ph.toNat <;>
    · simp (disch := omega) only [hrow, MapsTo, windowOf, BitVec.toNat_ofNat, Nat.mod_eq_of_lt, true_and]
      omega

theorem rectOK_fullScreen (rot : BitVec 2) {pw ph : Nat} (hpw : 0 < pw) (hph : 0 < ph) :
    rectOK rot pw ph 0 0 (logicalWidth rot pw ph) (logicalHeight rot pw ph) = true := by
  rw [rectOK_iff, logicalWidth, logicalHeight]
  split <;> omega

/-- Settles O45: the pixel count is the product of the two extents, and the full screen is its row's only window. -/
theorem translateKeepsThePixelCountAndTheFullScreen : Obligations.TranslateKeepsThePixelCountAndTheFullScreen := by
  refine ⟨fun sense rot pw ph x y w h hr => ?_, fun sense rot pw ph hpw hph =>
    (mapsTo_fullScreen sense rot hpw hph).translateRect_eq (rectOK_fullScreen rot hpw hph)⟩
  have hextent := (mapsTo_translateRect pw.isLt ph.isLt hr).extent (windowPhysical_translateRect (sense := sense) hr)
  dsimp only at hextent ⊢
  refine ⟨?_, ?_, ?_⟩
  · rw [AddressWindow.pixels]
    split at hextent <;> rw [Prod.mk.injEq] at hextent <;> rw [hextent.1, hextent.2]
    exact Nat.mul_comm h w
  · rintro (rfl | rfl) <;> exact congrArg Prod.fst hextent
  · rintro (rfl | rfl) <;> exact congrArg Prod.fst hextent

theorem windowPhysical_position {pw ph : U16} {px py : Nat} (hx : px < pw.toNat) (hy : py < ph.toNat) :
    windowPhysical pw.toNat ph.toNat (windowOf px px py py) = true := by
  rw [windowPhysical_iff]
  simp (disch := omega) only [windowOf, BitVec.toNat_ofNat, Nat.mod_eq_of_lt]
  omega

/-- A position inside the panel stands in its row with a one-pixel rectangle (R163). -/
theorem mapsTo_position (sense : RotSense) (rot : BitVec 2) {pw ph : U16} {px py : Nat} (hx : px < pw.toNat)
    (hy : py < ph.toNat) :
    ∃ x y, MapsTo (mapperRow sense rot) pw.toNat ph.toNat { x := x, y := y, w := 1, h := 1 }
      (windowOf px px py py) := by
  have hphysical := windowPhysical_position hx hy
  have hm := mapsTo_untranslateWindow (sense := sense) (rot := rot) hphysical
  have hextent := hm.extent hphysical
  generalize untranslateWindow sense rot pw.toNat ph.toNat (windowOf px px py py) = r at hm hextent
  obtain ⟨x, y, w, h⟩ := r
  obtain ⟨rfl, rfl⟩ : w = 1 ∧ h = 1 := by
    simp only [windowOf, Nat.sub_self] at hextent
    split at hextent <;> simp only [Prod.mk.injEq] at hextent <;> omega
  exact ⟨x, y, hm⟩

theorem rectOK_position_iff {rot : BitVec 2} {pw ph x y : Nat} :
    rectOK rot pw ph x y 1 1 = true ↔ x < logicalWidth rot pw ph ∧ y < logicalHeight rot pw ph := by
  rw [rectOK_iff]
  omega

/-- Settles O46: `Untranslate` gives the logical position, and the row has no second one. -/
theorem everyPhysicalPositionHasOneLogicalPosition : Obligations.EveryPhysicalPositionHasOneLogicalPosition := by
  intro sense rot pw ph px py hx hy
  obtain ⟨x, y, hm⟩ := mapsTo_position sense rot hx hy
  have hr : rectOK rot pw.toNat ph.toNat x y 1 1 = true :=
    hm.rectOK_iff_windowPhysical.mpr (windowPhysical_position hx hy)
  obtain ⟨hxlt, hylt⟩ := rectOK_position_iff.mp hr
  refine ⟨(x, y), ⟨hxlt, hylt, hm.translateRect_eq hr⟩, ?_⟩
  rintro ⟨x', y'⟩ ⟨hxlt', hylt', htranslate⟩
  have hm' := mapsTo_translateRect (sense := sense) pw.isLt ph.isLt (rectOK_position_iff.mpr ⟨hxlt', hylt'⟩)
  rw [htranslate] at hm'
  have heq := hm'.rect_unique hm
  exact Prod.ext (congrArg Rect.x heq) (congrArg Rect.y heq)

end Sys2Proof.Machine
end

section
/-!
The drawing surface (43_drawing_surface.md): what `CLEAR`, `FILL_RECT`, `DRAW_IMAGE` and `DRAW_PIXELS` send and leave, what
they leave alone, and that equal windows send equal bytes. The items of a `DRAW_PIXELS` stream that have been served are one
state, `State.served`, from which a request goes on to its end item or to the item whose burst faults.
-/
namespace Sys2Proof.Machine

/-! ### One window and one write (R191, R193, R194) -/

/-- A request that is one `MemWrite`, when no burst faults (R140). -/
theorem exec_memWrite_clear {i : Instr} {operation : State → Flow} {s : State} {win : AddressWindow}
    {colors : List Color} (hs : s.serves = true) (hv : s.env.clear 6 = true)
    (hi : exec i s = runRequest readyOnly operation s) (ho : operation s = memWrite win colors s) :
    exec i s = .next { s with
      trace := s.trace ++ storeEvents s.cfg win (colorBytes colors), dcl := s.cfg.dcData,
      responses := s.responses ++ [responseWord .ok s.xfault s.phase], busy := false, stream := .none,
      env := s.env.after 6 } := by
  rw [hi, runRequest_serves hs, ho, memWrite_clear hv, conclude_ok, respond]

/-- Settles O16: `CLEAR` is one `MemWrite` of the full window. -/
theorem clearSendsTheFullScreen : Obligations.ClearSendsTheFullScreen := by
  intro s color hs hv
  rw [exec_memWrite_clear (operation := clearScreen color) hs hv rfl rfl]
  rfl

/-- Settles O18: `FILL_RECT` inside the bounds is one `MemWrite` of the translated window. -/
theorem fillRectSendsOneWindowAndItsPixels : Obligations.FillRectSendsOneWindowAndItsPixels :=
  fun _ _ _ _ _ color hs hv hw => exec_memWrite_clear hs hv rfl (fillWindow_inside color hw)

/-- Settles O19: the window, the opcode byte and the pixel burst complete, the last having pulled its bytes; the policy
`noop` ends the request before any of them. -/
theorem drawImageSendsTheStreamPixels : Obligations.DrawImageSendsTheStreamPixels := by
  intro s x y w h hs
  refine ⟨fun bytes hv hr hstream hlen => ?_, fun hpolicy hempty => ?_⟩
  · obtain ⟨h5, h1⟩ := (clear_add (m := 5) (n := 1)).mp hv
    have hbytes : s.stream.byteItems = bytes := congrArg StreamPort.byteItems hstream
    subst hbytes
    have hpixels := writePixelsFromStream_clear (s := s.beforePixels (s.translate x.toNat y.toNat w.toNat h.toNat))
      (clear_verdict h1) hlen
    have hdraw := (drawImageRect_inside hr).trans ((memWriteFromStream_clear h5).trans hpixels)
    refine ((runRequest_serves (operation := drawImageRect x y w h) hs).trans (congrArg conclude hdraw)).trans ?_
    simp [respond, State.sent, State.pull, State.beforePixels, storeEvents, dat, Level.line, Env.after, Env.afterBurst]
  · have hzero : w.toNat = 0 ∨ h.toNat = 0 := hempty.imp (congrArg BitVec.toNat) (congrArg BitVec.toNat)
    exact (runRequest_serves (operation := drawImageRect x y w h) hs).trans
      (congrArg conclude (if_pos ⟨hzero, hpolicy⟩))

/-! ### `DRAW_PIXELS`, served up to some item (R192) -/

/-- The items inside the logical bounds of a state. -/
def State.inside (s : State) (items : List PixelItem) : List PixelItem :=
  items.filter fun t => positionInside s.rot s.pw.toNat s.ph.toNat (Item.x t) (Item.y t)

/-- The events of an item inside the logical bounds. -/
def State.itemEvents (s : State) (t : PixelItem) : List Event :=
  storeEvents s.cfg (s.translate (Item.x t).toNat (Item.y t).toNat 1 1) [hi8 (Item.color t), lo8 (Item.color t)]

/-- The state in which `DRAW_PIXELS` has pulled and served the items `items`, none of whose bursts faulted. -/
def State.served (s : State) (items : List PixelItem) : State :=
  { s with
    trace := s.trace ++ (s.inside items).flatMap s.itemEvents
    dcl := if (s.inside items).isEmpty then s.dcl else s.cfg.dcData
    stream := s.stream.drop items.length
    pulled := s.pulled + items.length
    env := s.env.after (6 * (s.inside items).length) }

theorem inside_append (s : State) (items items' : List PixelItem) :
    s.inside (items ++ items') = s.inside items ++ s.inside items' := List.filter_append _ _

theorem inside_singleton {s : State} {item : PixelItem}
    (hp : positionInside s.rot s.pw.toNat s.ph.toNat (Item.x item) (Item.y item) = true) : s.inside [item] = [item] :=
  List.filter_cons_of_pos hp

theorem streamPort_drop_zero (p : StreamPort) : p.drop 0 = p := by
  cases p <;> rfl

theorem streamPort_drop_drop (p : StreamPort) (m n : Nat) : (p.drop m).drop n = p.drop (m + n) := by
  cases p <;> simp [StreamPort.drop]

theorem served_nil (s : State) : s.served [] = s := by
  simp [State.served, State.inside, streamPort_drop_zero, Env.after]

/-- Serving two lists of items one after the other. -/
theorem served_served (s : State) (items items' : List PixelItem) :
    (s.served items).served items' = s.served (items ++ items') := by
  have hinside : (s.served items).inside items' = s.inside items' := rfl
  have hevents : (s.served items).itemEvents = s.itemEvents := rfl
  have hdcl : (if (s.inside items').isEmpty then (if (s.inside items).isEmpty then s.dcl else s.cfg.dcData)
      else s.cfg.dcData) = if (s.inside items ++ s.inside items').isEmpty then s.dcl else s.cfg.dcData := by
    cases s.inside items <;> cases s.inside items' <;> rfl
  rw [State.served, hinside, hevents]
  simp only [State.served, hdcl, inside_append, List.flatMap_append, List.append_assoc, List.length_append,
    streamPort_drop_drop, after_after, Nat.mul_add, Nat.add_assoc]

/-- An item that is pulled and served when no burst of it faults. -/
theorem drawItem_served {item : PixelItem} {s : State} (hv : s.env.clear (6 * (s.inside [item]).length) = true) :
    drawItem item (s.pull 1) = .ok (s.served [item]) := by
  by_cases hp : positionInside s.rot s.pw.toNat s.ph.toNat (Item.x item) (Item.y item) = true
  · rw [inside_singleton hp] at hv
    rw [drawItem_inside (s := s.pull 1) hp, memWrite_clear (s := s.pull 1) hv, State.served, inside_singleton hp,
      List.flatMap_singleton]
    rfl
  · have hnone : s.inside [item] = [] := List.filter_cons_of_neg hp
    rw [drawItem, pull_rot, pull_pw, pull_ph, if_neg hp, State.served, hnone]
    simp [State.pull, Env.after]

/-- Items that are no end items are served, and the request goes on with what follows them. -/
theorem drawItems_append {items tail : List PixelItem} {s : State} (hi : items.all (fun t => !Item.isEnd t) = true)
    (hv : s.env.clear (6 * (s.inside items).length) = true) :
    drawItems (items ++ tail) s = drawItems tail (s.served items) := by
  induction items generalizing s with
  | nil => rw [served_nil, List.nil_append]
  | cons item items ih =>
    obtain ⟨hend, hi⟩ : Item.isEnd item = false ∧ items.all (fun t => !Item.isEnd t) = true := by simpa using hi
    rw [← List.singleton_append, inside_append, List.length_append, Nat.mul_add] at hv
    obtain ⟨hfirst, hrest⟩ := clear_add.mp hv
    rw [List.cons_append, drawItems, hend, if_neg Bool.false_ne_true, drawItem_served hfirst, andThen_ok,
      ih (s := s.served [item]) hi hrest, served_served, List.singleton_append]

/-- `DRAW_PIXELS` goes on from the items it has served. -/
theorem exec_drawPixels_served {items tail : List PixelItem} {s : State} (hs : s.serves = true)
    (hstream : s.stream = .pixels (items ++ tail)) (hi : items.all (fun t => !Item.isEnd t) = true)
    (hv : s.env.clear (6 * (s.inside items).length) = true) :
    exec .drawPixels s = conclude (drawItems tail (s.served items)) := by
  have hdraw : drawStream s = drawItems tail (s.served items) := by
    rw [drawStream, hstream, StreamPort.pixelItems, drawItems_append hi hv]
  exact (runRequest_serves hs).trans (congrArg conclude hdraw)

/-- Settles O17: the items before the end item are served, and the end item is pulled. -/
theorem drawPixelsServesTheItemsInOrder : Obligations.DrawPixelsServesTheItemsInOrder := by
  intro s items rest last hs hstream hi hl hv
  have hinside : (s.inside items).length ≤ items.length := List.length_filter_le _ _
  rw [exec_drawPixels_served hs hstream hi (clear_mono hv (Nat.mul_le_mul_left 6 hinside)), drawItems, if_pos hl,
    conclude_ok]
  rfl

/-- An item inside the bounds whose burst `k` is the first that does not complete, and faults (R114). -/
theorem drawItem_fault {item : PixelItem} {s : State} {k n ahead : Nat} {level : Level} {bytes : List Byte}
    (hp : positionInside s.rot s.pw.toNat s.ph.toNat (Item.x item) (Item.y item) = true)
    (hk : (s.itemEvents item)[k]? = some (.burst level bytes .complete)) (hclear : s.env.clear k = true)
    (hv : (s.env.after k).verdict = .fault n ahead) :
    drawItem item s = .raise .transportError { s with
      trace := s.trace ++ (s.itemEvents item).take k ++ [.burst level (bytes.take n) .faulted],
      dcl := level.line s.cfg, xfault := true, env := s.env.after (k + 1) } := by
  have hevents : s.itemEvents item = (storeBursts s.cfg (s.translate (Item.x item).toNat (Item.y item).toNat 1 1)
    (colorBytes [Item.color item])).map completed := rfl
  rw [hevents] at hk ⊢
  rw [drawItem_inside hp, memWrite_eq, runBursts_fault (getElem?_of_map_completed hk) hclear hv, List.map_take]

/-- Settles O31: the items before the faulted one are served, that item is pulled, and its bursts stop at the fault. -/
theorem drawPixelsStopsAtTheFault : Obligations.DrawPixelsStopsAtTheFault := by
  intro s before rest item k n ahead level bytes inside events hs hstream hi hend hp hk hv hfault
  obtain ⟨hserved, hclear⟩ := clear_add.mp hv
  rw [← after_after] at hfault
  rw [exec_drawPixels_served hs hstream hi hserved, drawItems, hend, if_neg Bool.false_ne_true,
    drawItem_fault (s := (s.served before).pull 1) hp hk hclear hfault, andThen_raise, conclude_raise]
  simp only [State.served, State.pull, after_after]
  rfl

/-! ### What a drawing request leaves alone and what it does not read (R166, R190) -/

/-- A request that only makes progress: beside its progress it changes `BUSY`, the responses and the stream port. -/
theorem runRequest_frame {allowed : Phase → Bool} {operation : State → Flow} {s t : State}
    (ho : (operation s).Stays Progress s) (h : runRequest allowed operation s = .next t) :
    ∃ u, Progress s u ∧ t = { u with busy := t.busy, responses := t.responses, stream := t.stream } := by
  obtain ⟨-, ⟨-, rfl⟩ | ⟨-, ⟨u, hu, rfl⟩ | ⟨e, u, hu, rfl⟩ | ⟨u, hu, rfl⟩⟩⟩ := runRequest_next h
  · exact ⟨s, .refl s, rfl⟩
  all_goals
    rw [hu] at ho
    exact ⟨u, ho, rfl⟩

/-- A state with other values in `SCR` and `MIR`. -/
def State.withView (scr : Scroll) (mir : Bool) (s : State) : State := { s with scr := scr, mir := mir }

/-- A function applied to the state a flow ends in. -/
def Flow.map (g : State → State) : Flow → Flow
  | .ok s => .ok (g s)
  | .raise e s => .raise e (g s)
  | .stuck s => .stuck (g s)
  | .refuse r => .refuse r

/-- An operation that reads neither `SCR` nor `MIR`, and leaves them as they are. -/
def Viewless (f : State → Flow) : Prop := ∀ scr mir s, f (s.withView scr mir) = (f s).map (State.withView scr mir)

theorem ok_viewless : Viewless .ok := fun _ _ _ => rfl

theorem raise_viewless (e : Code) : Viewless (.raise e) := fun _ _ _ => rfl

theorem Viewless.andThen {f k : State → Flow} (hf : Viewless f) (hk : Viewless k) :
    Viewless fun s => (f s).andThen k := by
  intro scr mir s
  dsimp only
  rw [hf]
  cases f s with
  | ok t => exact hk scr mir t
  | raise e t => rfl
  | stuck t => rfl
  | refuse r => rfl

/-- A choice by a condition that does not speak of `SCR` and `MIR`. -/
theorem Viewless.ite {p : State → Prop} [DecidablePred p] (hp : ∀ scr mir s, p (s.withView scr mir) ↔ p s)
    {f g : State → Flow} (hf : Viewless f) (hg : Viewless g) : Viewless fun s => if p s then f s else g s := by
  intro scr mir s
  by_cases h : p s
  · simpa only [h, (hp scr mir s).mpr h, if_true] using hf scr mir s
  · simpa only [h, mt (hp scr mir s).mp h, if_false] using hg scr mir s

theorem burst_viewless (level : Level) (bytes : List Byte) : Viewless (burst level bytes) := by
  intro scr mir s
  obtain ⟨hv, h⟩ | ⟨n, a, hv, h⟩ | ⟨n, a, hv, h⟩ := burst_cases level bytes s <;> rw [h]
  · exact burst_ok hv
  · exact burst_fault hv
  · exact burst_hang hv

theorem runBursts_viewless (bs : List (Level × List Byte)) : Viewless (runBursts bs) := by
  induction bs with
  | nil => exact ok_viewless
  | cons b bs ih => exact (burst_viewless b.1 b.2).andThen ih

theorem memWrite_viewless (win : AddressWindow) (colors : List Color) : Viewless (memWrite win colors) := by
  intro scr mir s
  rw [memWrite_eq, memWrite_eq]
  exact runBursts_viewless _ scr mir s

theorem writePixelsFromStream_viewless (n : Nat) : Viewless (writePixelsFromStream n) :=
  Viewless.ite (fun _ _ _ => Iff.rfl) (fun _ _ _ => rfl) fun scr mir s => burst_viewless _ _ scr mir (s.pull _)

theorem memWriteFromStream_viewless (win : AddressWindow) (n : Nat) : Viewless (memWriteFromStream win n) := by
  intro scr mir s
  rw [memWriteFromStream_eq, memWriteFromStream_eq]
  exact (runBursts_viewless _).andThen (writePixelsFromStream_viewless n) scr mir s

theorem drawItem_viewless (item : PixelItem) : Viewless (drawItem item) :=
  Viewless.ite (fun _ _ _ => Iff.rfl) (fun scr mir s => memWrite_viewless _ _ scr mir s) ok_viewless

theorem drawItems_viewless (items : List PixelItem) : Viewless (drawItems items) := by
  induction items with
  | nil => exact fun _ _ _ => rfl
  | cons item items ih =>
    exact Viewless.ite (fun _ _ _ => Iff.rfl) (fun _ _ _ => rfl)
      (Viewless.andThen (fun scr mir s => drawItem_viewless item scr mir (s.pull 1)) ih)

theorem fillWindow_viewless (xs xe ys ye : U16) (color : Color) : Viewless (fillWindow xs xe ys ye color) :=
  Viewless.ite (fun _ _ _ => Iff.rfl) (fun scr mir s => memWrite_viewless _ _ scr mir s) (raise_viewless .outOfBounds)

theorem drawImageRect_viewless (x y w h : U16) : Viewless (drawImageRect x y w h) :=
  Viewless.ite (fun _ _ _ => Iff.rfl) ok_viewless
    (Viewless.ite (fun _ _ _ => Iff.rfl) (fun scr mir s => memWriteFromStream_viewless _ _ scr mir s)
      (raise_viewless .outOfBounds))

/-- The end of a request reads neither register and sets neither. -/
theorem conclude_withView (scr : Scroll) (mir : Bool) (f : Flow) :
    conclude (f.map (State.withView scr mir)) = mapNext (State.withView scr mir) (conclude f) := by
  cases f <;> rfl

theorem runRequest_withView {operation : State → Flow} (ho : Viewless operation) (allowed : Phase → Bool) (scr : Scroll)
    (mir : Bool) (s : State) :
    runRequest allowed operation (s.withView scr mir) =
      mapNext (State.withView scr mir) (runRequest allowed operation s) := by
  have hcfg : (s.withView scr mir).cfg = s.cfg := rfl
  have hphase : (s.withView scr mir).phase = s.phase := rfl
  unfold runRequest
  rw [hcfg, hphase, ho, conclude_withView]
  split
  · split <;> rfl
  · rfl

/-- Every drawing request is an operation that executes only in `READY`, commits nothing and reads neither `SCR` nor
`MIR`. -/
theorem exec_draws {i : Instr} (hi : drawsPixels i = true) :
    ∃ operation, exec i = runRequest readyOnly operation ∧ (∀ s, (operation s).Stays Progress s) ∧
      Viewless operation := by
  cases i
  case clear color =>
    exact ⟨clearScreen color, rfl, fun s => memWrite_progresses _ _ s, fun scr mir s => memWrite_viewless _ _ scr mir s⟩
  case drawPixels =>
    exact ⟨drawStream, rfl, fun s => drawItems_progresses _ s, fun scr mir s => drawItems_viewless _ scr mir s⟩
  case fillRect xs xe ys ye color =>
    exact ⟨fillWindow xs xe ys ye color, rfl, fillWindow_progresses xs xe ys ye color,
      fillWindow_viewless xs xe ys ye color⟩
  case drawImage x y w h =>
    exact ⟨drawImageRect x y w h, rfl, drawImageRect_progresses x y w h, drawImageRect_viewless x y w h⟩
  all_goals cases hi

/-- Settles O37: bursts and pulls change no register but `XFAULT` and `DCL`, and the end of a request only `BUSY`. -/
theorem drawingRequestsKeepTheRegisters : Obligations.DrawingRequestsKeepTheRegisters := by
  intro s t i hi h
  obtain ⟨operation, hexec, ho, -⟩ := exec_draws hi
  rw [hexec] at h
  obtain ⟨u, ⟨sent, d, v, stream, pulled, rfl⟩, ht⟩ := runRequest_frame (ho s) h
  exact ⟨sent, by rw [ht]⟩

/-- Settles O41: each drawing request is an operation that reads neither register. -/
theorem drawingReadsNeitherScrollNorMirror : Obligations.DrawingReadsNeitherScrollNorMirror := by
  intro s i scr mir hi
  obtain ⟨operation, hexec, -, ho⟩ := exec_draws hi
  rw [hexec]
  exact runRequest_withView ho readyOnly scr mir s

/-! ### Equal windows (R193, R197) -/

section
variable (isEnd : Bool) (x y : BitVec 32) (color : Color)

@[simp] theorem color_itemOf : Item.color (itemOf isEnd x y color) = color := BitVec.extractLsb'_append_eq_right

@[simp] theorem y_itemOf : Item.y (itemOf isEnd x y color) = y.toInt :=
  congrArg BitVec.toInt ((extract_append_slot _ color 0 32).trans BitVec.extractLsb'_append_eq_right)

@[simp] theorem x_itemOf : Item.x (itemOf isEnd x y color) = x.toInt := by
  have hslot : (itemOf isEnd x y color).extractLsb' 48 32 = (BitVec.ofBool isEnd ++ x ++ y).extractLsb' 32 32 :=
    extract_append_slot _ color 32 32
  rw [Item.x, hslot, BitVec.extractLsb'_append_eq_of_le (Nat.le_refl 32), Nat.sub_self,
    BitVec.extractLsb'_append_eq_right]

@[simp] theorem isEnd_itemOf : Item.isEnd (itemOf isEnd x y color) = isEnd := by
  have hslot : (itemOf isEnd x y color).getLsbD 80 = (BitVec.ofBool isEnd ++ x ++ y).getLsbD 64 := BitVec.getLsbD_append
  rw [Item.isEnd, hslot, BitVec.getLsbD_append, BitVec.getLsbD_append]
  simp

end

/-- The logical screen has the pixels of the panel (R23). -/
theorem lw_mul_lh (s : State) : s.lw * s.lh = s.pw.toNat * s.ph.toNat := by
  unfold State.lw State.lh logicalWidth logicalHeight
  split
  · exact Nat.mul_comm _ _
  · rfl

/-- The full logical screen is translated to the full window (R167, R193). -/
theorem translate_fullScreen {s : State} (hw : 0 < s.lw) (hh : 0 < s.lh) : s.translate 0 0 s.lw s.lh = s.fullWindow := by
  have hpos : 0 < s.pw.toNat * s.ph.toNat := lw_mul_lh s ▸ Nat.mul_pos hw hh
  exact translateKeepsThePixelCountAndTheFullScreen.2 s.cfg.rotSense s.rot s.pw s.ph (Nat.pos_of_mul_pos_right hpos)
    (Nat.pos_of_mul_pos_left hpos)

/-- What `DRAW_PIXELS` of one item adds to the trace when no burst faults. -/
theorem exec_drawPixels_one_trace {s t : State} {item last : PixelItem} (hs : s.serves = true)
    (hv : s.env.clear 6 = true) (hitem : Item.isEnd item = false) (hlast : Item.isEnd last = true)
    (h : exec .drawPixels { s with stream := .pixels [item, last] } = .next t) :
    t.trace = s.trace ++ (s.inside [item]).flatMap s.itemEvents := by
  have hall : [item].all (fun t => !Item.isEnd t) = true := by simp [hitem]
  have hexec := drawPixelsServesTheItemsInOrder { s with stream := .pixels [item, last] } [item] [] last hs rfl hall
    hlast hv
  obtain rfl := Host.Outcome.next.inj (h.symm.trans hexec)
  rfl

/-- The trace of a request that is one `MemWrite`, when no burst faults. -/
theorem exec_memWrite_trace {i : Instr} {operation : State → Flow} {s t : State} {win : AddressWindow}
    {colors : List Color} (hs : s.serves = true) (hv : s.env.clear 6 = true)
    (hi : exec i s = runRequest readyOnly operation s) (ho : operation s = memWrite win colors s)
    (h : exec i s = .next t) : t.trace = s.trace ++ storeEvents s.cfg win (colorBytes colors) := by
  obtain rfl := Host.Outcome.next.inj (h.symm.trans (exec_memWrite_clear hs hv hi ho))
  rfl

/-- `FILL_RECT` of the full logical screen is the `MemWrite` of `CLEAR` (R193). -/
theorem fillWindow_fullScreen {s : State} {xe ye : U16} (color : Color) (hxe : xe.toNat + 1 = s.lw)
    (hye : ye.toNat + 1 = s.lh) : fillWindow 0 xe 0 ye color s = clearScreen color s := by
  have hwin : winOK s.rot s.pw.toNat s.ph.toNat 0 xe.toNat 0 ye.toNat = true :=
    winOK_iff.mpr ⟨Nat.zero_le _, Nat.zero_le _, Nat.lt_of_succ_le hxe.le, Nat.lt_of_succ_le hye.le⟩
  have hfull := translate_fullScreen (s := s) (hxe ▸ Nat.succ_pos _) (hye ▸ Nat.succ_pos _)
  calc fillWindow 0 xe 0 ye color s
    _ = memWrite (s.translate 0 0 (xe.toNat + 1) (ye.toNat + 1))
          (List.replicate ((xe.toNat + 1) * (ye.toNat + 1)) color) s := fillWindow_inside color hwin
    _ = clearScreen color s := by rw [hxe, hye, hfull, lw_mul_lh, clearScreen]

/-- A position with coordinates that are not negative is inside the bounds as the window of that position is (R162). -/
theorem positionInside_natCast (rot : BitVec 2) (pw ph x y : Nat) :
    positionInside rot pw ph x y = winOK rot pw ph x x y y := by
  simp [positionInside, winOK]

/-- `FILL_RECT` of one position is the `MemWrite` of one pixel there (R193). -/
theorem fillWindow_onePosition {s : State} {xp yp : U16} (color : Color)
    (hw : winOK s.rot s.pw.toNat s.ph.toNat xp.toNat xp.toNat yp.toNat yp.toNat = true) :
    fillWindow xp xp yp yp color s = memWrite (s.translate xp.toNat yp.toNat 1 1) [color] s := by
  rw [fillWindow_inside _ hw, Nat.sub_self, Nat.sub_self]
  rfl

/-- Settles O52: equal windows are one `MemWrite`, whichever request sends it, and an item's events depend neither on the
trace nor on the environment that a `CLEAR` leaves. -/
theorem equalWindowsSendEqualBytes : Obligations.EqualWindowsSendEqualBytes := by
  refine ⟨?_, ?_, ?_⟩
  · intro s t u xe ye color hs hv hxe hye ht hu
    rw [exec_memWrite_trace (operation := fillWindow 0 xe 0 ye color) hs hv rfl
        (fillWindow_fullScreen color hxe hye) ht,
      exec_memWrite_trace (operation := clearScreen color) hs hv rfl rfl hu]
  · intro s t u x y xp yp color hs hv hx hy hw ht hu
    have hp : positionInside s.rot s.pw.toNat s.ph.toNat (Item.x (itemOf false x y color))
        (Item.y (itemOf false x y color)) = true := by
      rw [x_itemOf, y_itemOf, hx, hy, positionInside_natCast, hw]
    rw [exec_memWrite_trace (operation := fillWindow xp xp yp yp color) hs hv rfl (fillWindow_onePosition color hw) ht,
      exec_drawPixels_one_trace hs hv (isEnd_itemOf ..) (isEnd_itemOf ..) hu, inside_singleton hp,
      List.flatMap_singleton, State.itemEvents, x_itemOf, y_itemOf, color_itemOf, hx, hy]
    rfl
  · intro s t u v color item hs hv hitem ht hu hv'
    obtain ⟨h6, h6'⟩ := (clear_add (m := 6) (n := 6)).mp hv
    obtain rfl := Host.Outcome.next.inj
      (ht.symm.trans (exec_memWrite_clear (operation := clearScreen color) hs h6 rfl rfl))
    exact ⟨(s.inside [item]).flatMap s.itemEvents, exec_drawPixels_one_trace hs h6' hitem (isEnd_itemOf ..) hu,
      exec_drawPixels_one_trace hs h6 hitem (isEnd_itemOf ..) hv'⟩

end Sys2Proof.Machine
end

section
/-!
The scroll requests (44_scroll.md). Both are a check, one command with a payload and a commit: what they leave when the
command completes is said once for that shape, and so is that the shape commutes with a change of `ROT` and `MIR`.
-/
namespace Sys2Proof.Machine

/-! ### What they send and commit (R220, R221) -/

/-- A request whose check has passed and which is one command and a commit, when no burst faults. -/
theorem exec_commandWith_commit {i : Instr} {operation : State → Flow} {s : State} {opcode : Byte} {payload : List Byte}
    (hs : s.serves = true) (hv : s.env.clear 2 = true) (hi : exec i s = runRequest readyOnly operation s)
    (ho : operation s = (commandWith opcode payload s).andThen fun t => .ok (commitOf i t)) :
    exec i s = .next (respond .ok (commitOf i { s with
      trace := s.trace ++ [cmd opcode, dat payload], dcl := s.cfg.dcData, env := s.env.after 2 })) := by
  rw [hi, runRequest_serves hs, ho, commandWith_clear hv, andThen_ok, conclude_ok]

/-- Settles O20: a layout that sums to `PH` passes the check, and the commit resets the offset without a command. -/
theorem configureScrollSendsAndCommitsTheLayout : Obligations.ConfigureScrollSendsAndCommitsTheLayout :=
  fun _ top area bottom hs hv hsum =>
    exec_commandWith_commit (operation := layoutScroll top area bottom) hs hv rfl (if_pos hsum)

/-- Settles O21: an offset below `SCR.area` passes the check and is sent as it is. -/
theorem setOffsetSendsAndCommitsTheOffset : Obligations.SetOffsetSendsAndCommitsTheOffset :=
  fun _ offset hs hv hlt => exec_commandWith_commit (operation := moveOffset offset) hs hv rfl (if_pos hlt)

/-! ### What they do not read (R223) -/

/-- A state with other values in `ROT` and `MIR`. -/
def State.withOrientation (rot : BitVec 2) (mir : Bool) (s : State) : State := { s with rot := rot, mir := mir }

/-- An operation that ends the same way whether `g` changes the state before it or after it. -/
def Commutes (g : State → State) (f : State → Flow) : Prop := ∀ s, f (g s) = (f s).map g

theorem Commutes.andThen {g : State → State} {f k : State → Flow} (hf : Commutes g f) (hk : Commutes g k) :
    Commutes g fun s => (f s).andThen k := by
  intro s
  dsimp only
  rw [hf]
  cases f s with
  | ok t => exact hk t
  | raise e t => rfl
  | stuck t => rfl
  | refuse r => rfl

/-- A choice by a condition that `g` does not change. -/
theorem Commutes.ite {g : State → State} {p : State → Prop} [DecidablePred p] (hp : ∀ s, p (g s) ↔ p s)
    {f k : State → Flow} (hf : Commutes g f) (hk : Commutes g k) : Commutes g fun s => if p s then f s else k s := by
  intro s
  by_cases h : p s
  · simpa only [h, (hp s).mpr h, if_true] using hf s
  · simpa only [h, mt (hp s).mp h, if_false] using hk s

section
variable (rot : BitVec 2) (mir : Bool)

theorem burst_commutes_withOrientation (level : Level) (bytes : List Byte) :
    Commutes (State.withOrientation rot mir) (burst level bytes) := by
  intro s
  obtain ⟨hv, h⟩ | ⟨n, a, hv, h⟩ | ⟨n, a, hv, h⟩ := burst_cases level bytes s <;> rw [h]
  · exact burst_ok hv
  · exact burst_fault hv
  · exact burst_hang hv

theorem commandWith_commutes_withOrientation (opcode : Byte) (payload : List Byte) :
    Commutes (State.withOrientation rot mir) (commandWith opcode payload) :=
  (burst_commutes_withOrientation rot mir _ _).andThen (burst_commutes_withOrientation rot mir _ _)

/-- The check is against `PH`, the strap (R220). -/
theorem layoutScroll_commutes_withOrientation (top area bottom : U16) :
    Commutes (State.withOrientation rot mir) (layoutScroll top area bottom) :=
  Commutes.ite (g := State.withOrientation rot mir) (fun _ => Iff.rfl)
    (Commutes.andThen (fun s => commandWith_commutes_withOrientation rot mir _ _ s) fun _ => rfl) fun _ => rfl

/-- The check is against `SCR.area` (R221). -/
theorem moveOffset_commutes_withOrientation (offset : U16) :
    Commutes (State.withOrientation rot mir) (moveOffset offset) :=
  Commutes.ite (g := State.withOrientation rot mir) (fun _ => Iff.rfl)
    (Commutes.andThen (fun s => commandWith_commutes_withOrientation rot mir _ _ s) fun _ => rfl) fun _ => rfl

/-- The gating and the end of a request read neither register and set neither. -/
theorem runRequest_withOrientation {operation : State → Flow} (ho : Commutes (State.withOrientation rot mir) operation)
    (allowed : Phase → Bool) (s : State) :
    runRequest allowed operation (s.withOrientation rot mir) =
      mapNext (State.withOrientation rot mir) (runRequest allowed operation s) := by
  have hcfg : (s.withOrientation rot mir).cfg = s.cfg := rfl
  have hphase : (s.withOrientation rot mir).phase = s.phase := rfl
  have hconclude : ∀ f : Flow, conclude (f.map (State.withOrientation rot mir)) =
      mapNext (State.withOrientation rot mir) (conclude f) := fun f => by cases f <;> rfl
  unfold runRequest
  rw [hcfg, hphase, ho, hconclude]
  split
  · split <;> rfl
  · rfl

end

/-- Settles O42: the operation of either scroll request commutes with a change of the two registers. -/
theorem scrollReadsNeitherRotationNorMirror : Obligations.ScrollReadsNeitherRotationNorMirror := by
  intro s i rot mir hi
  cases i
  case configureScroll top area bottom =>
    exact runRequest_withOrientation rot mir (layoutScroll_commutes_withOrientation rot mir top area bottom) readyOnly s
  case setOffset offset =>
    exact runRequest_withOrientation rot mir (moveOffset_commutes_withOrientation rot mir offset) readyOnly s
  all_goals cases hi

end Sys2Proof.Machine
end

section
/-!
The initialisation (45_init.md). What its start-up sequence leaves is said for each way the environment can answer it: all
six bursts complete, the acknowledge is missing, the burst `k` is the first that does not complete. These are all the ways
there are, so how an `INIT` failed is read off its environment. That no other request is answered `InitError` is read off
the errors each of them can raise.
-/
namespace Sys2Proof.Machine

/-! ### `INIT` is its start-up sequence and what follows it (R240) -/

theorem initAllowed_of_ne_dead {p : Phase} (h : p ≠ .dead) : initAllowed p = true := by
  cases p with
  | uninit => rfl
  | ready => rfl
  | dead => exact absurd rfl h

/-- An `INIT` that executes is its start-up sequence, the handler of its errors and the commit. -/
theorem exec_init_eq {s : State} (hc : cfgValid s.cfg = true) (hp : s.phase ≠ .dead) :
    exec .init s = conclude (((startUp s).onRaise fun _ t => failInit t).andThen commitInit) :=
  runRequest_allowed (operation := initialise) hc (initAllowed_of_ne_dead hp)

theorem exec_init_of_ok {s t : State} (hc : cfgValid s.cfg = true) (hp : s.phase ≠ .dead) (h : startUp s = .ok t) :
    exec .init s = .next (respond .ok (initCommit t)) := by
  rw [exec_init_eq hc hp, h]
  rfl

theorem exec_init_of_raise {s t : State} {e : Code} (hc : cfgValid s.cfg = true) (hp : s.phase ≠ .dead)
    (h : startUp s = .raise e t) : exec .init s = .next (respond .initError { t with phase := .dead }) := by
  rw [exec_init_eq hc hp, h]
  rfl

/-! ### The sequence runs to its end, or the acknowledge is missing (R240, R241) -/

/-- The state in which the start-up sequence has run to its end. -/
def State.startedUp (s : State) : State :=
  { s with trace := s.trace ++ initEvents s, rstl := 1, dcl := s.cfg.dcCmd, env := s.env.afterInit }

theorem startUp_clear {s : State} (hr : s.env.returns 2 = true) (hclear : s.env.clear 6 = true)
    (hack : s.env.initAck = true) : startUp s = .ok s.startedUp := by
  obtain ⟨hwake, hshow⟩ := (clear_add (m := 3) (n := 3)).mp hclear
  rw [startUp_acknowledged hr hwake hack, runBursts_clear (bs := showBursts s) (s := s.woken) hshow]
  simp [State.startedUp, State.woken, State.pulsed, initEvents_eq, showBursts, wireBursts, Level.line, Env.after,
    Env.afterInit]

/-- The state in which the acknowledge has been sampled and not given. -/
def State.unacknowledged (s : State) : State :=
  { s with
    trace := s.trace ++ (initEvents s).take 7, rstl := 1, dcl := s.cfg.dcData,
    env := { bursts := s.env.bursts.drop 3, delays := s.env.delays.drop 2, acks := s.env.acks.drop 1 } }

theorem startUp_unacknowledged {s : State} (hr : s.env.returns 2 = true) (hclear : s.env.clear 3 = true)
    (hack : s.env.initAck = false) : startUp s = .raise .initError s.unacknowledged := by
  have hwake := runBursts_clear (bs := wakeBursts s) (s := s.pulsed) hclear
  rw [startUp_returns hr, hwake, andThen_ok, sampleInitAck_false (by exact hack), andThen_raise]
  simp [State.unacknowledged, State.pulsed, initEvents, wakeBursts, wireBursts, completed, cmd, dat, Level.line, Env.after]

/-- Settles O12: every burst completes and the acknowledge is given, so the sequence runs to its end and is committed. -/
theorem initRunsItsSequence : Obligations.InitRunsItsSequence :=
  fun _ hc hp hclear hr hack => exec_init_of_ok hc hp (startUp_clear hr hclear hack)

/-- Settles O13: the sequence raises an error at the sample point, which ends `INIT` in `DEAD`. -/
theorem missingAcknowledgeEndsInit : Obligations.MissingAcknowledgeEndsInit :=
  fun _ hc hp hclear hr hack => exec_init_of_raise hc hp (startUp_unacknowledged hr hclear hack)

/-! ### The first burst that does not complete (R114, R264) -/

/-- The state in which the burst `k` of `INIT` is the next thing to do, the D/C line at `d`. -/
def State.beforeInitBurst (k : Nat) (d : BitVec 1) (s : State) : State :=
  { s with
    trace := s.trace ++ (initEvents s).take (4 + k), rstl := 1, dcl := d,
    env := { bursts := s.env.bursts.drop k, delays := s.env.delays.drop 2,
             acks := s.env.acks.drop (if 3 ≤ k then 1 else 0) } }

/-- The start-up sequence goes on from the burst `k` when the bursts before it complete. -/
theorem startUp_drop {s : State} {k : Nat} {level : Level} {bytes : List Byte} (hr : s.env.returns 2 = true)
    (hk : (initEvents s)[4 + k]? = some (.burst level bytes .complete)) (hclear : s.env.clear k = true)
    (hack : 3 ≤ k → s.env.initAck = true) :
    ∃ d rest, startUp s = (burst level bytes (s.beforeInitBurst k d)).andThen rest := by
  have hburst := getElem?_initEvents hk
  have hlen : (wakeBursts s).length = 3 := rfl
  unfold State.beforeInitBurst
  rw [take_initEvents]
  obtain hlt | hge := Nat.lt_or_ge k 3
  · rw [List.getElem?_append_left (hlen ▸ hlt)] at hburst
    obtain ⟨d, h⟩ := runBursts_drop (s := s.pulsed) hburst hclear
    rw [startUp_returns hr, h, andThen_assoc, List.take_append_of_le_length (hlen ▸ hlt.le),
      if_neg (Nat.not_le.mpr hlt), ← List.append_assoc]
    exact ⟨d, _, rfl⟩
  · obtain ⟨j, rfl⟩ := Nat.exists_eq_add_of_le hge
    obtain ⟨h3, hj⟩ := clear_add.mp hclear
    rw [List.getElem?_append_right (hlen ▸ hge), hlen, Nat.add_sub_cancel_left] at hburst
    obtain ⟨d, h⟩ := runBursts_drop (s := s.woken) hburst hj
    rw [startUp_acknowledged hr h3 (hack hge), h, if_pos hge, ← hlen, List.take_length_add_append]
    exact ⟨d, runBursts ((showBursts s).drop (j + 1)), by simp [State.woken, State.pulsed, Env.after, hlen]⟩

/-- The state in which the burst `k` of `INIT` has faulted after `n` bytes. -/
def State.initFaulted (k : Nat) (level : Level) (bytes : List Byte) (n : Nat) (s : State) : State :=
  { s with
    trace := s.trace ++ (initEvents s).take (4 + k) ++ [.burst level (bytes.take n) .faulted],
    xfault := true, rstl := 1, dcl := level.line s.cfg,
    env := { bursts := s.env.bursts.drop (k + 1), delays := s.env.delays.drop 2,
             acks := s.env.acks.drop (if 3 ≤ k then 1 else 0) } }

/-- The burst `k` of the start-up sequence is the first that does not complete, and faults (R114). -/
theorem startUp_fault {s : State} {k n ahead : Nat} {level : Level} {bytes : List Byte} (hr : s.env.returns 2 = true)
    (hk : (initEvents s)[4 + k]? = some (.burst level bytes .complete)) (hclear : s.env.clear k = true)
    (hv : (s.env.after k).verdict = .fault n ahead) (hack : 3 ≤ k → s.env.initAck = true) :
    startUp s = .raise .transportError (s.initFaulted k level bytes n) := by
  obtain ⟨d, rest, h⟩ := startUp_drop hr hk hclear hack
  rw [h, burst_fault (by exact hv), andThen_raise]
  simp [State.cut, State.beforeInitBurst, State.initFaulted, Env.afterBurst]

/-! ### The errors of the start-up sequence, read backward -/

/-- Of the next `n` verdicts all are success, or one of them is the first that is not. -/
theorem clear_or_first_failure (n : Nat) (v : Env) :
    v.clear n = true ∨ ∃ k < n, v.clear k = true ∧ (v.after k).verdict ≠ .ok := by
  induction n with
  | zero => exact .inl (clear_zero v)
  | succ n ih =>
    obtain h | ⟨k, hk, h⟩ := ih
    · by_cases hv : (v.after n).verdict = .ok
      · exact .inl (clear_add.mpr ⟨h, clear_one hv⟩)
      · exact .inr ⟨n, Nat.lt_succ_self n, h, hv⟩
    · exact .inr ⟨k, Nat.lt_succ_of_lt hk, h⟩

/-- The delay provider returns from both delays, or the start-up sequence waits in one of them (R117). -/
theorem returns_or_startUp_stuck (s : State) : s.env.returns 2 = true ∨ ∃ t, startUp s = .stuck t := by
  match hd : s.env.delays with
  | [] => exact .inl (by simp [Env.returns, hd])
  | false :: _ => exact .inr ⟨_, startUp_first_delay hd⟩
  | [true] => exact .inl (by simp [Env.returns, hd])
  | true :: false :: _ => exact .inr ⟨_, startUp_second_delay hd⟩
  | true :: true :: _ => exact .inl (by simp [Env.returns, hd])

/-- The events after the reset pulse are the six bursts. -/
theorem initEvents_burst (s : State) {k : Nat} (hk : k < 6) :
    ∃ level bytes, (initEvents s)[4 + k]? = some (.burst level bytes .complete) := by
  interval_cases k <;> exact ⟨_, _, rfl⟩

/-- The states in which a burst of the start-up sequence has faulted. -/
def InitFaults (s t : State) : Prop :=
  ∃ k level bytes n, (initEvents s)[4 + k]? = some (.burst level bytes .complete) ∧ t = s.initFaulted k level bytes n

/-- An error raised where the burst `k` is the first that does not complete is that burst's fault. -/
theorem initFaults_of_failure {s t : State} {e : Code} {k : Nat} (h : startUp s = .raise e t)
    (hr : s.env.returns 2 = true) (hk : k < 6) (hclear : s.env.clear k = true) (hv : (s.env.after k).verdict ≠ .ok)
    (hack : 3 ≤ k → s.env.initAck = true) : InitFaults s t := by
  obtain ⟨level, bytes, hburst⟩ := initEvents_burst s hk
  cases hverdict : (s.env.after k).verdict with
  | ok => exact absurd hverdict hv
  | fault n ahead =>
    rw [startUp_fault hr hburst hclear hverdict hack] at h
    cases h
    exact ⟨k, level, bytes, n, hburst, rfl⟩
  | hang n ahead =>
    rw [startUp_hang hr hburst hclear hverdict hack] at h
    cases h

/-- An error in the start-up sequence is a faulted burst or the missing acknowledge (R240, R241). -/
theorem startUp_raises {s t : State} {e : Code} (h : startUp s = .raise e t) :
    InitFaults s t ∨ (s.env.initAck = false ∧ t = s.unacknowledged) := by
  obtain hr | ⟨u, hu⟩ := returns_or_startUp_stuck s
  · obtain h3 | ⟨k, hk, hclear, hv⟩ := clear_or_first_failure 3 s.env
    · cases hack : s.env.initAck with
      | false =>
        rw [startUp_unacknowledged hr h3 hack] at h
        cases h
        exact .inr ⟨rfl, rfl⟩
      | true =>
        obtain h6 | ⟨k, hk, hclear, hv⟩ := clear_or_first_failure 6 s.env
        · rw [startUp_clear hr h6 hack] at h
          cases h
        · exact .inl (initFaults_of_failure h hr hk hclear hv fun _ => hack)
    · exact .inl (initFaults_of_failure h hr (hk.trans (by decide)) hclear hv fun hge => absurd hk hge.not_gt)
  · cases hu.symm.trans h

/-- An `INIT` that executed, is answered and is not in `READY` after it raised an error in its start-up sequence. -/
theorem exec_init_fails {s t : State} (hp : s.phase ≠ .dead) (h : exec .init s = .next t) (hb : t.busy = false)
    (hready : t.phase ≠ .ready) :
    ∃ e u, startUp s = .raise e u ∧ t = respond .initError { u with phase := .dead } := by
  have hc : cfgValid s.cfg = true := (runRequest_next (operation := initialise) h).1
  cases hs : startUp s with
  | ok u =>
    obtain rfl := Host.Outcome.next.inj (h.symm.trans (exec_init_of_ok hc hp hs))
    exact absurd rfl hready
  | raise e u => exact ⟨e, u, rfl, Host.Outcome.next.inj (h.symm.trans (exec_init_of_raise hc hp hs))⟩
  | stuck u =>
    obtain rfl := Host.Outcome.next.inj (h.symm.trans (exec_init_of_stuck hc hp hs))
    cases hb
  | refuse r =>
    rw [exec_init_eq hc hp, hs] at h
    cases h

/-! ### The errors of the other requests (R261 to R263) -/

/-- The check of a request fails with an error (R262, R263). -/
inductive FailsCheck (s : State) : Instr → Code → Prop where
  | fillRect {xs xe ys ye : U16} {color : Color}
      (hw : winOK s.rot s.pw.toNat s.ph.toNat xs.toNat xe.toNat ys.toNat ye.toNat = false) :
      FailsCheck s (.fillRect xs xe ys ye color) .outOfBounds
  | drawImage {x y w h : U16}
      (hr : rectOK s.rot s.pw.toNat s.ph.toNat x.toNat y.toNat w.toNat h.toNat = false) :
      FailsCheck s (.drawImage x y w h) .outOfBounds
  | configureScroll {top area bottom : U16} (hsum : top.toNat + area.toNat + bottom.toNat ≠ s.ph.toNat) :
      FailsCheck s (.configureScroll top area bottom) .invalidScrollLayout
  | setOffset {offset : U16} (hle : s.scr.area.toNat ≤ offset.toNat) : FailsCheck s (.setOffset offset) .outOfBounds

/-- A flow whose error, if it raises one, is the transport's. -/
def Flow.RaisesTransport (f : Flow) : Prop := f.Ends (fun _ => True) (fun e _ => e = .transportError) fun _ => True

theorem Flow.RaisesTransport.andThen {f : Flow} {k : State → Flow} (h : f.RaisesTransport)
    (hk : ∀ t, (k t).RaisesTransport) : (f.andThen k).RaisesTransport := Flow.Ends.andThen h fun t _ => hk t

theorem ok_raisesTransport (s : State) : (Flow.ok s).RaisesTransport := trivial

theorem Flow.Transports.raisesTransport {s : State} {f : Flow} (h : f.Transports s) : f.RaisesTransport :=
  h.mono (fun _ _ => trivial) (fun _ _ he => he.1) fun _ _ => trivial

theorem writePixelsFromStream_raisesTransport (n : Nat) (s : State) : (writePixelsFromStream n s).RaisesTransport := by
  obtain h | ⟨bytes, pulled, h, -⟩ := writePixelsFromStream_cases n s <;> rw [h]
  · trivial
  · exact (burst_transports _ _ _).raisesTransport

theorem memWriteFromStream_raisesTransport (win : AddressWindow) (n : Nat) (s : State) :
    (memWriteFromStream win n s).RaisesTransport :=
  (setAddressWindow_transports win s).raisesTransport.andThen fun t =>
    (burst_transports _ _ t).raisesTransport.andThen (writePixelsFromStream_raisesTransport n)

theorem drawItems_raisesTransport (items : List PixelItem) (s : State) : (drawItems items s).RaisesTransport := by
  induction items generalizing s with
  | nil => trivial
  | cons item items ih =>
    unfold drawItems drawItem
    split
    · trivial
    · refine Flow.RaisesTransport.andThen ?_ ih
      split
      · exact (memWrite_transports _ _ _).raisesTransport
      · trivial

/-- A flow whose error, if it raises one, is the transport's, or that of the check of `i`, raised before anything is done. -/
def Flow.Errs (i : Instr) (s : State) (f : Flow) : Prop :=
  f.Ends (fun _ => True) (fun e t => e = .transportError ∨ t = s ∧ FailsCheck s i e) fun _ => True

theorem Flow.RaisesTransport.errs {i : Instr} {s : State} {f : Flow} (h : f.RaisesTransport) : f.Errs i s :=
  h.mono (fun _ => id) (fun _ _ => .inl) fun _ => id

/-- A request but `INIT` executes only in `READY`, and fails by the transport or by its own check. -/
theorem exec_errs {i : Instr} (hw : i.isWire = false) (hi : i ≠ .init) (s : State) :
    ∃ operation, exec i s = runRequest readyOnly operation s ∧ (operation s).Errs i s := by
  cases i with
  | init => exact absurd rfl hi
  | setOrientation rotation =>
    exact ⟨orient rotation, rfl,
      ((setMemoryAccessControl_transports _ _ s).raisesTransport.andThen fun _ => ok_raisesTransport _).errs⟩
  | clear color => exact ⟨clearScreen color, rfl, (memWrite_transports _ _ s).raisesTransport.errs⟩
  | drawPixels => exact ⟨drawStream, rfl, (drawItems_raisesTransport _ s).errs⟩
  | fillRect xs xe ys ye color =>
    refine ⟨fillWindow xs xe ys ye color, rfl, ?_⟩
    unfold fillWindow
    split
    next => exact (memWrite_transports _ _ s).raisesTransport.errs
    next h => exact .inr ⟨rfl, .fillRect (Bool.eq_false_of_not_eq_true h)⟩
  | drawImage x y w h =>
    refine ⟨drawImageRect x y w h, rfl, ?_⟩
    unfold drawImageRect
    split
    next => trivial
    next =>
      split
      next => exact (memWriteFromStream_raisesTransport _ _ s).errs
      next h => exact .inr ⟨rfl, .drawImage (Bool.eq_false_of_not_eq_true h)⟩
  | configureScroll top area bottom =>
    refine ⟨layoutScroll top area bottom, rfl, ?_⟩
    unfold layoutScroll
    split
    next => exact ((commandWith_transports _ _ s).raisesTransport.andThen fun _ => ok_raisesTransport _).errs
    next h => exact .inr ⟨rfl, .configureScroll h⟩
  | setOffset offset =>
    refine ⟨moveOffset offset, rfl, ?_⟩
    unfold moveOffset
    split
    next => exact ((commandWith_transports _ _ s).raisesTransport.andThen fun _ => ok_raisesTransport _).errs
    next h => exact .inr ⟨rfl, .setOffset (Nat.le_of_not_lt h)⟩
  | sleepOut | setColorMode | setMemoryAccessControl mv mx | setAddressWindowColumns xs xe
  | setAddressWindowRows ys ye | memoryWrite colors | setScrollArea top middle bottom | setScrollOffset offset
  | displayOn => cases hw

/-- The codes a request but `INIT` can be answered with (R260 to R265). -/
theorem exec_response_code {i : Instr} {s t : State} {w : ResponseWord} (hw : i.isWire = false) (hi : i ≠ .init)
    (h : exec i s = .next t) (ht : t.responses = s.responses ++ [w]) :
    ∃ code, responseCode w = code.number.toNat ∧
      (code = .ok ∨ code = .notReady ∨ code = .transportError ∨ t = respond code s ∧ FailsCheck s i code) := by
  have hanswer : ∀ {code : Code} {u : State}, t = respond code u → responseCode w = code.number.toNat := by
    rintro code u rfl
    rw [← responseCode_responseWord code u.xfault u.phase,
      List.singleton_inj.mp (List.append_inj_right' ht rfl)]
  obtain ⟨operation, hexec, herrs⟩ := exec_errs hw hi s
  have hbusy : t.busy = true → t.responses = s.responses := fun hb => (exec_busy_keeps h hb).1
  rw [hexec] at h
  obtain ⟨-, ⟨-, hnext⟩ | ⟨-, ⟨u, -, hnext⟩ | ⟨e, u, hu, hnext⟩ | ⟨u, -, rfl⟩⟩⟩ := runRequest_next h
  · exact ⟨.notReady, hanswer hnext, .inr (.inl rfl)⟩
  · exact ⟨.ok, hanswer hnext, .inl rfl⟩
  · rw [hu] at herrs
    obtain he | ⟨rfl, he⟩ := herrs
    · exact ⟨e, hanswer hnext, .inr (.inr (.inl he))⟩
    · exact ⟨e, hanswer hnext, .inr (.inr (.inr ⟨hnext, he⟩))⟩
  · rw [hbusy rfl] at ht
    simp at ht

/-! ### An `INIT` that fails (R243, R264, R269) -/

/-- An event of a list stands between those before it and those after it. -/
theorem eq_take_cons_drop_of_getElem? {l : List Event} {k : Nat} {e : Event} (h : l[k]? = some e) :
    l = l.take k ++ e :: l.drop (k + 1) := by
  obtain ⟨hk, rfl⟩ := List.getElem?_eq_some_iff.mp h
  rw [← List.drop_eq_getElem_cons hk, List.take_append_drop]

/-- Settles O14: forward, the sequence raises an error at the burst that faults; backward, only a faulted burst or the
missing acknowledge can have raised one; and the errors of the other requests are the transport's and their checks'. -/
theorem failedInitLeavesADeadBlock : Obligations.FailedInitLeavesADeadBlock := by
  refine ⟨fun s k n ahead level bytes hc hp hr hk hclear hv hack => ?_, fun s t hp h hb hready => ?_,
    fun s t i w hw h ht hcode => ?_⟩
  · exact exec_init_of_raise hc hp (startUp_fault hr hk hclear hv hack)
  · obtain ⟨e, u, hu, rfl⟩ := exec_init_fails hp h hb hready
    obtain ⟨k, level, bytes, n, hk, rfl⟩ | ⟨hack, rfl⟩ := startUp_raises hu
    · exact ⟨rfl, rfl, rfl, rfl, rfl, .inl ⟨rfl, _, _, level, bytes, n, eq_take_cons_drop_of_getElem? hk, rfl⟩⟩
    · exact ⟨rfl, rfl, rfl, rfl, rfl, .inr ⟨rfl, hack, rfl⟩⟩
  · by_contra hi
    obtain ⟨code, hnumber, hcases⟩ := exec_response_code hw hi h ht
    have hfour : code.number.toNat = 4 := hnumber.symm.trans hcode
    obtain rfl | rfl | rfl | ⟨-, hcheck⟩ := hcases
    · cases hfour
    · cases hfour
    · cases hfour
    · cases hcheck <;> cases hfour

end Sys2Proof.Machine
end

section
/-!
The error answers (60_exceptions.md). A reserved operation code and a request outside its phase are answered before any
operation begins. Every other answer is read off how the request's operation ended: a failed check raises its error before
anything is done, and a faulted burst is the last event of its request.
-/
namespace Sys2Proof.Machine

/-! ### Reserved operation codes, requests outside their phase (R265, R266, R268) -/

/-- Operation codes above 0x07 are no request's (R86). -/
theorem decodeRequest_reserved {d : Descriptor} (h : 7 < (Op.code d).toNat) :
    decodeRequest d = .error (.reservedOp (Op.code d)) := by
  unfold decodeRequest
  split
  case h_9 => rfl
  all_goals omega

/-- Settles O6: the operation code decodes to no request, so the request is accepted and answered at once. -/
theorem reservedOperationsAreIllegalRequests : Obligations.ReservedOperationsAreIllegalRequests := by
  intro s d stream rest hs hin hcode
  have hb : s.busy = false := (idle_iff.mp hs).2.1
  rw [step_idle hs hin, acceptRequest, decodeRequest_reserved hcode, hb]
  rfl

/-- A request in a phase that does not allow it (R96). -/
theorem runRequest_notReady {allowed : Phase → Bool} {operation : State → Flow} {s : State} (hc : cfgValid s.cfg = true)
    (hp : allowed s.phase = false) : runRequest allowed operation s = .next (s.answered .notReady) := by
  rw [runRequest, if_pos hc, hp]
  rfl

/-- Settles O10: `DEAD` allows no request, and `UNINIT` none of those that execute only in `READY`. -/
theorem requestsOutsideTheirPhaseAreNotReady : Obligations.RequestsOutsideTheirPhaseAreNotReady := by
  intro i s hc hw hp
  by_cases hi : i = .init
  · subst hi
    obtain hdead | ⟨-, hne⟩ := hp
    · exact runRequest_notReady (operation := initialise) hc (by rw [hdead]; rfl)
    · exact absurd rfl hne
  · obtain ⟨operation, hexec, -⟩ := exec_errs hw hi s
    rw [hexec]
    obtain hdead | ⟨huninit, -⟩ := hp
    · exact runRequest_notReady hc (by rw [hdead]; rfl)
    · exact runRequest_notReady hc (by rw [huninit]; rfl)

/-! ### The code of an answer (R85) -/

/-- The response a state ends with carries the code it was answered with. -/
theorem responseCode_of_respond {responses : List ResponseWord} {w : ResponseWord} {t u : State} {code : Code}
    (ht : t.responses = responses ++ [w]) (hu : t = respond code u) : responseCode w = code.number.toNat := by
  subst hu
  rw [← responseCode_responseWord code u.xfault u.phase, List.singleton_inj.mp (List.append_inj_right' ht rfl)]

/-- An instruction that gives a response does not leave the block waiting (R316). -/
theorem not_busy_of_response {i : Instr} {s t : State} {w : ResponseWord} (h : exec i s = .next t)
    (ht : t.responses = s.responses ++ [w]) : t.busy ≠ true := by
  intro hb
  rw [(exec_busy_keeps h hb).1] at ht
  simp at ht

/-- The codes `INIT` can be answered with (R243, R264, R265). -/
theorem exec_init_response_code {s t : State} {w : ResponseWord} (h : exec .init s = .next t)
    (ht : t.responses = s.responses ++ [w]) : responseCode w = 0 ∨ responseCode w = 4 ∨ responseCode w = 5 := by
  obtain hnext | ⟨-, u, -, hnext | hnext | hnext⟩ := exec_init_next h
  · exact .inr (.inr (responseCode_of_respond ht hnext))
  · exact .inl (responseCode_of_respond ht hnext)
  · exact .inr (.inl (responseCode_of_respond ht hnext))
  · exact absurd (by rw [hnext]) (not_busy_of_response h ht)

/-! ### Failed checks (R262, R263) -/

/-- A request answered with the code of a check has failed its own, and nothing but the answer happened. -/
theorem exec_answers_check {i : Instr} {s t : State} {w : ResponseWord} (hw : i.isWire = false) (h : exec i s = .next t)
    (ht : t.responses = s.responses ++ [w]) (hcode : responseCode w = 2 ∨ responseCode w = 3) :
    ∃ code, responseCode w = code.number.toNat ∧ t = s.answered code ∧ FailsCheck s i code := by
  have hi : i ≠ .init := by
    rintro rfl
    have hinit := exec_init_response_code h ht
    omega
  obtain ⟨code, hnumber, hcases⟩ := exec_response_code hw hi h ht
  rw [hnumber] at hcode
  obtain rfl | rfl | rfl | ⟨hnext, hcheck⟩ := hcases
  · exact absurd hcode (by decide)
  · exact absurd hcode (by decide)
  · exact absurd hcode (by decide)
  · exact ⟨code, hnumber, hnext, hcheck⟩

/-- A request whose operation raises an error in the state it starts from. -/
theorem runRequest_raises {operation : State → Flow} {s : State} {code : Code} (hs : s.serves = true)
    (h : operation s = .raise code s) : runRequest readyOnly operation s = .next (s.answered code) := by
  rw [runRequest_serves hs, h]
  rfl

/-- A `DRAW_IMAGE` outside the bounds that the policy for empty rectangles does not let pass (R162, R194). -/
theorem drawImageRect_outside {s : State} {x y w h : U16}
    (hr : rectOK s.rot s.pw.toNat s.ph.toNat x.toNat y.toNat w.toNat h.toNat = false)
    (hempty : w = 0 ∨ h = 0 → s.cfg.emptyRectPolicy = .reject) : drawImageRect x y w h s = .raise .outOfBounds s := by
  have hreject : ¬ ((w.toNat = 0 ∨ h.toNat = 0) ∧ s.cfg.emptyRectPolicy = .noop) := by
    rintro ⟨hwh, hnoop⟩
    have := hempty (hwh.imp BitVec.eq_of_toNat_eq BitVec.eq_of_toNat_eq)
    rw [hnoop] at this
    cases this
  rw [drawImageRect, if_neg hreject, hr]
  rfl

/-- Settles O27: forward, each of the three checks comes before anything is sent; backward, only these checks raise
`OutOfBounds`. -/
theorem outOfBoundsSendsNothing : Obligations.OutOfBoundsSendsNothing := by
  refine ⟨fun s xs xe ys ye color hs hwin => ?_, fun s x y w h hs hr hempty => ?_, fun s offset hs hle => ?_,
    fun s t i w hw h ht hcode => ?_⟩
  · exact runRequest_raises (operation := fillWindow xs xe ys ye color) hs (by rw [fillWindow, hwin]; rfl)
  · exact runRequest_raises hs (drawImageRect_outside hr hempty)
  · exact runRequest_raises hs (if_neg hle.not_gt)
  · obtain ⟨code, hnumber, rfl, hcheck⟩ := exec_answers_check hw h ht (.inl hcode)
    rw [hcode] at hnumber
    cases hcheck with
    | fillRect hwin => exact ⟨rfl, .inl ⟨_, _, _, _, _, rfl, hwin⟩⟩
    | drawImage hr => exact ⟨rfl, .inr (.inl ⟨_, _, _, _, rfl, hr⟩)⟩
    | configureScroll hsum => cases hnumber
    | setOffset hle => exact ⟨rfl, .inr (.inr ⟨_, rfl, hle⟩)⟩

/-- Settles O28: forward, the sum is checked before anything is sent; backward, only this check raises
`InvalidScrollLayout`. -/
theorem invalidScrollLayoutSendsNothing : Obligations.InvalidScrollLayoutSendsNothing := by
  refine ⟨fun s top area bottom hs hsum => ?_, fun s t i w hw h ht hcode => ?_⟩
  · exact runRequest_raises hs (if_neg hsum)
  · obtain ⟨code, hnumber, rfl, hcheck⟩ := exec_answers_check hw h ht (.inr hcode)
    rw [hcode] at hnumber
    cases hcheck with
    | configureScroll hsum => exact ⟨rfl, _, _, _, rfl, hsum⟩
    | fillRect hwin => cases hnumber
    | drawImage hr => cases hnumber
    | setOffset hle => cases hnumber

/-! ### A faulted burst is the last event of its request (R261) -/

/-- The states reached from `s` by sending bursts that all complete and pulling stream items. -/
def Completes (s t : State) : Prop :=
  ∃ sent d v stream pulled, sent.all Event.completed = true ∧
    t = { s with trace := s.trace ++ sent, dcl := d, env := v, stream := stream, pulled := pulled }

/-- The states in which the last burst sent since `s` has faulted, everything sent before it complete: `XFAULT` is set and
nothing is committed. -/
def EndsInFault (s t : State) : Prop :=
  ∃ sent level bytes d v stream pulled, sent.all Event.completed = true ∧
    t = { s with
      trace := s.trace ++ sent ++ [.burst level bytes .faulted], xfault := true, dcl := d, env := v, stream := stream,
      pulled := pulled }

/-- No burst sent since `s` has faulted. -/
def FaultFree (s t : State) : Prop := ∃ sent, t.trace = s.trace ++ sent ∧ sent.any Event.isFault = false

theorem FaultFree.refl (s : State) : FaultFree s s := ⟨[], (List.append_nil _).symm, rfl⟩

/-- A completed event is no fault. -/
theorem not_isFault_of_completed {e : Event} (h : e.completed = true) : e.isFault = false := by
  cases e with
  | rst l => rfl
  | dly ms => rfl
  | burst level bytes ending =>
    cases ending with
    | complete => rfl
    | faulted => cases h
    | stalled => rfl

theorem any_isFault_of_all_completed {sent : List Event} (h : sent.all Event.completed = true) :
    sent.any Event.isFault = false := by
  rw [List.any_eq_false]
  exact fun e he => by rw [not_isFault_of_completed (List.all_eq_true.mp h e he)]; exact Bool.false_ne_true

theorem all_completed_map (bs : List (Level × List Byte)) : (bs.map completed).all Event.completed = true := by
  rw [List.all_map, List.all_eq_true]
  exact fun _ _ => rfl

theorem pull_completes (n : Nat) (s : State) : Completes s (s.pull n) :=
  ⟨[], s.dcl, s.env, s.stream.drop n, s.pulled + n, rfl, by simp [State.pull]⟩

theorem Completes.trans {s t u : State} (h : Completes s t) (h' : Completes t u) : Completes s u := by
  obtain ⟨w, _, _, _, _, hw, rfl⟩ := h
  obtain ⟨w', d, v, stream, pulled, hw', rfl⟩ := h'
  exact ⟨w ++ w', d, v, stream, pulled, by rw [List.all_append, hw, hw']; rfl, by simp⟩

theorem Completes.endsInFault {s t u : State} (h : Completes s t) (h' : EndsInFault t u) : EndsInFault s u := by
  obtain ⟨w, _, _, _, _, hw, rfl⟩ := h
  obtain ⟨w', level, bytes, d, v, stream, pulled, hw', rfl⟩ := h'
  exact ⟨w ++ w', level, bytes, d, v, stream, pulled, by rw [List.all_append, hw, hw']; rfl, by simp⟩

theorem Completes.faultFree {s t u : State} (h : Completes s t) (h' : FaultFree t u) : FaultFree s u := by
  obtain ⟨w, _, _, _, _, hw, rfl⟩ := h
  obtain ⟨w', hu, hw'⟩ := h'
  exact ⟨w ++ w', by rw [hu, List.append_assoc], by rw [List.any_append, any_isFault_of_all_completed hw, hw']; rfl⟩

/-- A flow whose error, if it raises one, is the fault of the burst it sent last. -/
def Flow.StopsAtFault (s : State) (f : Flow) : Prop :=
  f.Ends (Completes s) (fun e t => e = .transportError ∧ EndsInFault s t) (FaultFree s)

theorem Flow.StopsAtFault.after {s t : State} {f : Flow} (h : f.StopsAtFault t) (ht : Completes s t) :
    f.StopsAtFault s :=
  h.mono (fun _ => ht.trans) (fun _ _ ⟨he, hu⟩ => ⟨he, ht.endsInFault hu⟩) fun _ => ht.faultFree

theorem Flow.StopsAtFault.andThen {s : State} {f : Flow} {k : State → Flow} (h : f.StopsAtFault s)
    (hk : ∀ t, (k t).StopsAtFault t) : (f.andThen k).StopsAtFault s :=
  Flow.Ends.andThen h fun t ht => Flow.StopsAtFault.after (hk t) ht

theorem runBursts_stopsAtFault (bs : List (Level × List Byte)) (s : State) : (runBursts bs s).StopsAtFault s := by
  refine (runBursts_ends bs s).mono ?_ ?_ ?_
  · rintro t ⟨d, v, rfl⟩
    exact ⟨bs.map completed, d, v, s.stream, s.pulled, all_completed_map bs, rfl⟩
  · rintro e t ⟨he, hx, before, b, after, n, d, x, v, -, rfl⟩
    obtain rfl : x = true := hx
    exact ⟨he, before.map completed, b.1, b.2.take n, d, v, s.stream, s.pulled, all_completed_map before, rfl⟩
  · rintro t ⟨-, before, b, after, n, d, x, v, -, rfl⟩
    refine ⟨before.map completed ++ [.burst b.1 (b.2.take n) .stalled], List.append_assoc _ _ _, ?_⟩
    rw [List.any_append, any_isFault_of_all_completed (all_completed_map before)]
    rfl

theorem commandWith_stopsAtFault (opcode : Byte) (payload : List Byte) (s : State) :
    (commandWith opcode payload s).StopsAtFault s :=
  commandWith_eq opcode payload s ▸ runBursts_stopsAtFault _ s

theorem memWrite_stopsAtFault (win : AddressWindow) (colors : List Color) (s : State) :
    (memWrite win colors s).StopsAtFault s :=
  memWrite_eq win colors s ▸ runBursts_stopsAtFault _ s

theorem burst_stopsAtFault (level : Level) (bytes : List Byte) (s : State) : (burst level bytes s).StopsAtFault s :=
  andThen_okay (burst level bytes s) ▸ runBursts_stopsAtFault [(level, bytes)] s

theorem writePixelsFromStream_stopsAtFault (n : Nat) (s : State) : (writePixelsFromStream n s).StopsAtFault s := by
  obtain h | ⟨bytes, pulled, h, -⟩ := writePixelsFromStream_cases n s <;> rw [h]
  · trivial
  · exact (burst_stopsAtFault .data bytes _).after (pull_completes pulled s)

theorem memWriteFromStream_stopsAtFault (win : AddressWindow) (n : Nat) (s : State) :
    (memWriteFromStream win n s).StopsAtFault s :=
  memWriteFromStream_eq win n s ▸ (runBursts_stopsAtFault _ s).andThen (writePixelsFromStream_stopsAtFault n)

theorem drawItems_stopsAtFault (items : List PixelItem) (s : State) : (drawItems items s).StopsAtFault s := by
  induction items generalizing s with
  | nil => trivial
  | cons item items ih =>
    unfold drawItems
    split
    · exact pull_completes 1 s
    · rw [drawItem_eq]
      exact ((runBursts_stopsAtFault _ _).andThen ih).after (pull_completes 1 s)

/-- A flow that raises `TransportError` exactly where a burst has faulted, and any other error where nothing is done. -/
def Flow.ReportsFault (s : State) (f : Flow) : Prop :=
  f.Ends (FaultFree s) (fun e t => e = .transportError ∧ EndsInFault s t ∨ e ≠ .transportError ∧ t = s) (FaultFree s)

/-- A commit after what is sent sends nothing itself. -/
theorem Flow.StopsAtFault.andThen_commit {s : State} {f : Flow} (h : f.StopsAtFault s) {commit : State → State}
    (hcommit : ∀ t, (commit t).trace = t.trace) : (f.andThen fun t => .ok (commit t)).ReportsFault s :=
  Flow.Ends.andThen (h.mono (fun _ => id) (fun _ _ => .inl) fun _ => id)
    fun t ht => ht.faultFree ⟨[], by rw [hcommit, List.append_nil], rfl⟩

theorem Flow.StopsAtFault.reportsFault {s : State} {f : Flow} (h : f.StopsAtFault s) : f.ReportsFault s :=
  andThen_okay f ▸ h.andThen_commit (commit := id) fun _ => rfl

/-- The operation of every request but `INIT` reports its faults. -/
theorem exec_reportsFault {i : Instr} (hw : i.isWire = false) (hi : i ≠ .init) (s : State) :
    ∃ operation, exec i s = runRequest readyOnly operation s ∧ (operation s).ReportsFault s := by
  cases i with
  | init => exact absurd rfl hi
  | setOrientation rotation =>
    exact ⟨orient rotation, rfl, (commandWith_stopsAtFault _ _ s).andThen_commit fun _ => rfl⟩
  | clear color => exact ⟨clearScreen color, rfl, (memWrite_stopsAtFault _ _ s).reportsFault⟩
  | drawPixels => exact ⟨drawStream, rfl, (drawItems_stopsAtFault _ s).reportsFault⟩
  | fillRect xs xe ys ye color =>
    refine ⟨fillWindow xs xe ys ye color, rfl, ?_⟩
    unfold fillWindow
    split
    · exact (memWrite_stopsAtFault _ _ s).reportsFault
    · exact .inr ⟨nofun, rfl⟩
  | drawImage x y w h =>
    refine ⟨drawImageRect x y w h, rfl, ?_⟩
    unfold drawImageRect
    split
    · exact FaultFree.refl s
    · split
      · exact (memWriteFromStream_stopsAtFault _ _ s).reportsFault
      · exact .inr ⟨nofun, rfl⟩
  | configureScroll top area bottom =>
    refine ⟨layoutScroll top area bottom, rfl, ?_⟩
    unfold layoutScroll
    split
    · exact (commandWith_stopsAtFault _ _ s).andThen_commit fun _ => rfl
    · exact .inr ⟨nofun, rfl⟩
  | setOffset offset =>
    refine ⟨moveOffset offset, rfl, ?_⟩
    unfold moveOffset
    split
    · exact (commandWith_stopsAtFault _ _ s).andThen_commit fun _ => rfl
    · exact .inr ⟨nofun, rfl⟩
  | sleepOut | setColorMode | setMemoryAccessControl mv mx | setAddressWindowColumns xs xe
  | setAddressWindowRows ys ye | memoryWrite colors | setScrollArea top middle bottom | setScrollOffset offset
  | displayOn => cases hw

/-- A request but `INIT` ends in `READY` with `TransportError` after a faulted burst, or has sent no faulted burst and is
answered another code or not at all. -/
theorem exec_transportError_or_faultFree {i : Instr} {s t : State} (hw : i.isWire = false) (hi : i ≠ .init)
    (h : exec i s = .next t) :
    (s.phase = .ready ∧ ∃ u, EndsInFault s u ∧ t = respond .transportError u) ∨
    (FaultFree s t ∧ ((∃ e u, e ≠ .transportError ∧ t = respond e u) ∨ t.busy = true)) := by
  obtain ⟨operation, hexec, hends⟩ := exec_reportsFault hw hi s
  rw [hexec] at h
  obtain ⟨-, ⟨-, rfl⟩ | ⟨hp, ⟨u, hu, rfl⟩ | ⟨e, u, hu, rfl⟩ | ⟨u, hu, rfl⟩⟩⟩ := runRequest_next h
  · exact .inr ⟨FaultFree.refl s, .inl ⟨.notReady, s, nofun, rfl⟩⟩
  all_goals rw [hu] at hends
  · exact .inr ⟨hends, .inl ⟨.ok, u, nofun, rfl⟩⟩
  · obtain ⟨rfl, hfault⟩ | ⟨he, rfl⟩ := hends
    · exact .inl ⟨eq_ready_of_readyOnly hp, u, hfault, rfl⟩
    · exact .inr ⟨FaultFree.refl _, .inl ⟨e, u, he, rfl⟩⟩
  · exact .inr ⟨hends, .inr rfl⟩

/-- The number of `TransportError` is no other code's (R260). -/
theorem eq_transportError_of_number {e : Code} (h : e.number.toNat = 1) : e = .transportError := by
  cases e with
  | transportError => rfl
  | ok | outOfBounds | invalidScrollLayout | initError | notReady | illegalRequest => cases h

/-- Settles O29: a request but `INIT` is answered `TransportError` just where its last burst has faulted, before any commit;
`INIT` has codes of its own. -/
theorem transportErrorCommitsNothing : Obligations.TransportErrorCommitsNothing := by
  refine ⟨fun s t i w hw h ht hcode => ?_, fun s t i sent hw hi h ht hfault => ?_⟩
  · have hi : i ≠ .init := by
      rintro rfl
      have hinit := exec_init_response_code h ht
      omega
    obtain ⟨hready, u, ⟨before, level, bytes, d, v, stream, pulled, hall, rfl⟩, rfl⟩ |
      ⟨-, ⟨e, u, he, hnext⟩ | hb⟩ := exec_transportError_or_faultFree hw hi h
    · exact ⟨hi, hready, hready, rfl, rfl, rfl, before, level, bytes, rfl, hall⟩
    · have hnumber := responseCode_of_respond ht hnext
      exact absurd (eq_transportError_of_number (hnumber.symm.trans hcode)) he
    · exact absurd hb (not_busy_of_response h ht)
  · obtain ⟨hready, u, ⟨before, level, bytes, d, v, stream, pulled, hall, rfl⟩, rfl⟩ | ⟨⟨sent', ht', hfree⟩, -⟩ :=
      exec_transportError_or_faultFree hw hi h
    · rw [respond_responses, hready]
    · obtain rfl : sent = sent' := List.append_cancel_left (ht.symm.trans ht')
      rw [hfree] at hfault
      cases hfault

end Sys2Proof.Machine
end

section
/-!
Reset, waiting and cost (70_reset_and_hazards.md). What a block that is not busy, and one that is, makes of its host inputs
is said once each; the byte count of a trace adds up over its parts, so that of a request is read off from its events.
-/
namespace Sys2Proof.Machine

/-! ### Waiting and the block reset (R300, R301) -/

/-- An idle block takes its next host input. -/
theorem step_takeInput {s : State} (hs : s.idle = true) : step s = (takeInput s).outcome := by
  obtain ⟨hc, hb, hd⟩ := idle_iff.mp hs
  rw [step_eq_outcome, fetch, if_pos hc, if_neg (Bool.eq_false_iff.mp hb), hd]

/-- A block inside a request takes no host input. -/
theorem step_busy {s : State} (hc : cfgValid s.cfg = true) (hb : s.busy = true) : step s = (waiting s).outcome := by
  rw [step_eq_outcome, fetch, if_pos hc, if_pos hb]

/-- Settles O7: with no input an idle block has nothing to take, and a busy one waits on. -/
theorem blockWithNothingToDoWaits : Obligations.BlockWithNothingToDoWaits := by
  refine ⟨fun s hs hin => ?_, fun _ => step_waiting⟩
  rw [step_takeInput hs, takeInput, hin]
  rfl

/-- Settles O9: a busy block refuses the reset it finds, an idle one takes it and is left at the reset values. -/
theorem blockResetOfAnIdleBlock : Obligations.BlockResetOfAnIdleBlock := by
  intro s rest hc hin
  refine ⟨fun hb => ?_, fun hb hd => ?_⟩
  · rw [step_busy hc hb, waiting, hin]
    rfl
  · have hstep : step s = .next (blockReset rest s) := by
      rw [step_takeInput (idle_iff.mpr ⟨hc, hb, hd⟩), takeInput, hin]
      rfl
    exact ⟨_, hstep, blockReset_cfg rest s, blockReset_pw rest s, blockReset_ph rest s, blockReset_mir rest s,
      blockReset_rot rest s, blockReset_scr rest s, blockReset_phase rest s, blockReset_xfault rest s,
      blockReset_busy rest s, blockReset_rstl rest s, blockReset_trace rest s, blockReset_inbox rest s⟩

/-! ### The bytes of a trace (R315) -/

theorem byteCount_append (v w : List Event) : byteCount (v ++ w) = byteCount v + byteCount w := by
  simp [byteCount, flat_append]

@[simp] theorem byteCount_nil : byteCount [] = 0 := rfl

/-- A change of the reset line carries no byte. -/
@[simp] theorem byteCount_rst (l : BitVec 1) (w : List Event) : byteCount (.rst l :: w) = byteCount w := rfl

/-- A delay carries no byte. -/
@[simp] theorem byteCount_dly (ms : Nat) (w : List Event) : byteCount (.dly ms :: w) = byteCount w := rfl

/-- A burst carries the bytes shown, however it ended. -/
theorem byteCount_burst (level : Level) (bytes : List Byte) (ending : Ending) (w : List Event) :
    byteCount (.burst level bytes ending :: w) = bytes.length + byteCount w := by
  have hburst : byteCount [.burst level bytes ending] = bytes.length := by
    simp [byteCount, flat, flatEvent, List.filter_map, Function.comp_def]
  rw [← List.singleton_append, byteCount_append, hburst]

@[simp] theorem byteCount_cmd (opcode : Byte) (w : List Event) : byteCount (cmd opcode :: w) = 1 + byteCount w :=
  byteCount_burst .command [opcode] .complete w

@[simp] theorem byteCount_dat (bytes : List Byte) (w : List Event) :
    byteCount (dat bytes :: w) = bytes.length + byteCount w :=
  byteCount_burst .data bytes .complete w

@[simp] theorem length_msbFirst (v : U16) : (msbFirst v).length = 2 := rfl

/-- A window and its write cost three opcode bytes, eight coordinate bytes and the pixels. -/
theorem byteCount_storeEvents (c : Cfg) (win : AddressWindow) (bytes : List Byte) :
    byteCount (storeEvents c win bytes) = 11 + bytes.length := by
  simp only [storeEvents, byteCount_cmd, byteCount_dat, byteCount_nil, List.length_append, length_msbFirst]
  omega

/-- A pixel costs two bytes. -/
theorem byteCount_storeEvents_replicate (c : Cfg) (win : AddressWindow) (n : Nat) (color : Color) :
    byteCount (storeEvents c win (colorBytes (List.replicate n color))) = 11 + 2 * n := by
  rw [byteCount_storeEvents, length_colorBytes, List.length_replicate]

theorem byteCount_initEvents (s : State) : byteCount (initEvents s) = 6 := by
  simp [initEvents]

/-- The image of a stream of whole pixels costs its stream's length. -/
theorem length_colorBytes_imageColors_take {bytes : List Byte} {n : Nat} (h : bytes.length = 2 * n) :
    (colorBytes (imageColors (bytes.take (2 * n)))).length = 2 * n := by
  rw [List.take_of_length_le h.le]
  exact (imageStreamBytesAreSwappedInPairs n bytes h).2.1

/-! ### The cost of a request (R315) -/

/-- A request answers, and its events cost `n` bytes. -/
def Costs (i : Instr) (s : State) (n : Nat) : Prop :=
  ∃ t, exec i s = .next t ∧ byteCount t.trace = byteCount s.trace + n

theorem costs_of_sent {i : Instr} {s t : State} {sent : List Event} {n : Nat} (h : exec i s = .next t)
    (ht : t.trace = s.trace ++ sent) (hn : byteCount sent = n) : Costs i s n :=
  ⟨t, h, by rw [ht, byteCount_append, hn]⟩

/-- A request that is one `MemWrite` of `n` pixels of one colour. -/
theorem costs_memWrite_replicate {i : Instr} {operation : State → Flow} {s : State} {win : AddressWindow} {n : Nat}
    {color : Color} (hs : s.serves = true) (hv : s.env.clear 6 = true)
    (hi : exec i s = runRequest readyOnly operation s)
    (ho : operation s = memWrite win (List.replicate n color) s) : Costs i s (11 + 2 * n) :=
  costs_of_sent (exec_memWrite_clear hs hv hi ho) rfl (byteCount_storeEvents_replicate s.cfg win n color)

/-- A `DRAW_PIXELS` of one item inside the bounds. -/
theorem costs_drawPixels_one {s : State} {item last : PixelItem} (hs : s.serves = true) (hv : s.env.clear 6 = true)
    (hstream : s.stream = .pixels [item, last]) (hitem : Item.isEnd item = false) (hlast : Item.isEnd last = true)
    (hinside : positionInside s.rot s.pw.toNat s.ph.toNat (Item.x item) (Item.y item) = true) :
    Costs .drawPixels s 13 := by
  have hall : [item].all (fun t => !Item.isEnd t) = true := by simp [hitem]
  have hsent : (s.inside [item]).flatMap s.itemEvents = s.itemEvents item := by
    rw [inside_singleton hinside, List.flatMap_singleton]
  exact costs_of_sent (sent := (s.inside [item]).flatMap s.itemEvents)
    (drawPixelsServesTheItemsInOrder s [item] [] last hs hstream hall hlast hv) rfl
    (hsent ▸ byteCount_storeEvents s.cfg _ _)

/-- Settles O51: each request's events are known when no burst faults, and their bytes are counted. -/
theorem requestsSendTheirByteCounts : Obligations.RequestsSendTheirByteCounts := by
  intro s i n hs hv hr hack hreq
  have hv2 : s.env.clear 2 = true := clear_mono hv (by decide)
  obtain ⟨rfl, rfl⟩ | ⟨rotation, rfl, rfl⟩ | ⟨color, rfl, rfl⟩ |
    ⟨item, last, rfl, hstream, hitem, hlast, hinside, rfl⟩ | ⟨xs, xe, ys, ye, color, rfl, hwin, rfl⟩ |
    ⟨x, y, w, h, bytes, rfl, hrect, hstream, hlen, rfl⟩ | ⟨top, area, bottom, rfl, hsum, rfl⟩ |
    ⟨offset, rfl, hoffset, rfl⟩ := hreq
  · obtain ⟨hc, hp⟩ := serves_iff.mp hs
    exact costs_of_sent (initRunsItsSequence s hc (by rw [hp]; nofun) hv hr hack) rfl (byteCount_initEvents s)
  · exact costs_of_sent (setOrientationSendsItsByteAndCommits s rotation hs hv2) rfl (by simp)
  · exact costs_memWrite_replicate (operation := clearScreen color) hs hv rfl rfl
  · exact costs_drawPixels_one hs hv hstream hitem hlast hinside
  · exact costs_memWrite_replicate hs hv rfl (fillWindow_inside color hwin)
  · exact costs_of_sent ((drawImageSendsTheStreamPixels s x y w h hs).1 bytes hv hrect hstream hlen.ge) rfl
      (by rw [byteCount_storeEvents, length_colorBytes_imageColors_take hlen])
  · exact costs_of_sent (configureScrollSendsAndCommitsTheLayout s top area bottom hs hv2 hsum) rfl (by simp)
  · exact costs_of_sent (setOffsetSendsAndCommitsTheOffset s offset hs hv2 hoffset) rfl (by simp)

end Sys2Proof.Machine
end
